-- ==== Sys2Proof/Word.lean ====
section
/-! DEFINITION. The bit vectors that the manual's registers, words and fields are made of. -/
namespace Sys2Proof

/-- Eight bits, the unit of memory (R2). -/
abbrev Byte := BitVec 8
/-- A 32-bit engine word, instruction, packet dword or accumulator element (R50, R61, R240). -/
abbrev W32 := BitVec 32
/-- A 64-bit generator register (R37). -/
abbrev Word := BitVec 64
/-- The number of an x register (R45). -/
abbrev Reg := BitVec 5
/-- A bay number: shed in [7:4], position in [3:0] (R11). -/
abbrev BayNo := BitVec 8
/-- A context number (R394). -/
abbrev CtxNo := BitVec 6
/-- A buffer id within its context (R165). -/
abbrev BufId := BitVec 24
/-- A task id, the number of a task slot (R347). -/
abbrev TaskId := BitVec 16
/-- A queue id: 0 mtx, 1 vec, 2 cin, 3 cout, 4 cls (R51). -/
abbrev QId := BitVec 3

end Sys2Proof
end

