-- ==== Sys2Proof/Config.lean ====
section
/-! DEFINITION. What an implementation fixes and the spec leaves open: the free values, which have no body,
and the constants that the spec states. -/
namespace Sys2Proof.Config

/-- The free values of the model (log 3): a fresh value for each argument, of which nothing is known.
It stands for keys drawn from the entropy source (R154, R186) and for results no rule states. -/
opaque freeValue : Nat → Word
/-- What a byte of home memory reads as that nothing has written since its buffer was created with a seed (R174, R186;
log 6): a function of the seed and the byte's address. -/
opaque freshByte : (seed addr : Nat) → Byte
/-- The byte of a bay's firmware store that boot firmware loads from the measured firmware image (R109; log 9): which part of
the image goes where is the image's own affair. -/
opaque firmwareByte : (image : List Byte) → (bay addr : Nat) → Byte
/-- The SHA3-256 digest of a byte string (R408); the standard is named, not written out (log 5). -/
opaque sha3 : List Byte → BitVec 256
/-- Whether an ML-DSA-44 signature verifies over a digest under a public key (R408), by reference (log 5). -/
opaque mldsaVerify : (key digest : BitVec 256) → (signature : List Byte) → Bool
/-- The ML-DSA-44 signature made with the package's identity key (R410), which the yard never exposes (log 5). -/
opaque mldsaSign : (digest : BitVec 256) → List Byte

/-- What a special function of R296 rounds to where the enclosures of Machine/Special.lean do not settle it (log 14):
a function of the vector op, the type, the rounding mode, the keyed bits and the operand's bits. -/
opaque unsettled : (op mode keyed operand : Nat) → (type : BitVec 4) → BitVec 32

/-- Entries that each existing queue holds (R14). -/
def queueCap : Nat := 256
/-- Waiting words that one list of the fairlead holds (R114). -/
def waitCap : Nat := 12
/-- Lines of the bay store (R148). -/
def bayLines : Nat := 262144
/-- Lines of the shed pool that tiles may take: all but its top 1,024 (R148). -/
def poolLines : Nat := 1048576 - 1024
/-- Resident task slots of the yard (R18, R347). -/
def taskSlots : Nat := 65536
/-- Live graphs of the yard (R362). -/
def graphSlots : Nat := 4096
/-- Bytes of HBM behind one loft (R29). -/
def loftBytes : Nat := 64 * 2 ^ 30
/-- Lines of a shed cache: 16 MiB (R29). -/
def shedLines : Nat := 262144
/-- Lines of a generator's instruction cache, and of its data cache: 64 KiB each (R13). -/
def icacheLines : Nat := 1024
/-- Entries of a bay's capability lookaside (R171). -/
def lookEntries : Nat := 128
/-- Lines of a loft's cache slice: 192 MiB (R29). -/
def loftLines : Nat := 3145728
/-- Entries of a loft's translation cache (R184). -/
def tlbEntries : Nat := 16384
/-- Chiplet entries of the discovery table (R18). -/
def chiplets : Nat := 26
/-- Cycles a PRI 0 task waits before the yard pre-empts for it (R360). -/
def preemptWait : Nat := 1024
/-- Cycles between two levels of the aging rule (R358). -/
def ageStep : Nat := 65536
/-- Bytes of the bay's firmware store (R109). -/
def firmwareBytes : Nat := 65536

end Sys2Proof.Config
end

