-- ==== Sys2Proof/Machine/Num.lean ====
section
/-! DEFINITION. Number formats, exact values, the rounding procedure of R86, conversions, exact sums with the special
values of R98 and R291, and keyed stochastic rounding (chapter Number formats, scales and rounding). -/
namespace Sys2Proof.Machine

/-- A format code (R76). -/
abbrev Fmt := BitVec 4

namespace Fmt
def i8 : Fmt := 0
def n8 : Fmt := 1
def i16 : Fmt := 2
def n16 : Fmt := 3
def i32 : Fmt := 4
def i4 : Fmt := 5
def n4 : Fmt := 6
def qn4 : Fmt := 7
def e4m3 : Fmt := 8
def e5m2 : Fmt := 9
def bf16 : Fmt := 10
def fp16 : Fmt := 11
def fp32 : Fmt := 12
def e6m9 : Fmt := 13
def i2 : Fmt := 14
end Fmt

/-- Bits of an element (R76); the reserved code 0xF has none. -/
def fmtBits (f : Fmt) : Nat :=
  match f.toNat with
  | 0 | 1 => 8
  | 2 | 3 => 16
  | 4 => 32
  | 5 | 6 | 7 => 4
  | 8 | 9 => 8
  | 10 | 11 => 16
  | 12 => 32
  | 13 => 16
  | 14 => 2
  | _ => 0

/-- w of R76, the width the brick pairing rule uses. -/
def fmtW (f : Fmt) : Nat :=
  match f.toNat with
  | 0 | 1 => 8
  | 2 | 3 => 16
  | 4 => 32
  | 5 | 6 => 4
  | 7 => 8
  | 8 => 4
  | 9 => 3
  | 10 => 8
  | 11 => 11
  | 12 => 24
  | 13 => 10
  | 14 => 2
  | _ => 0

/-- P of R26: the bricks that a product costs. -/
def pairP (fa fb : Fmt) : Nat := ((fmtW fa + 1) / 2) * ((fmtW fb + 1) / 2)
/-- kd: the largest power of two not above min(8, 64/P). -/
def pairKd (fa fb : Fmt) : Nat :=
  let p := pairP fa fb
  if 64 < p then 1 else if 8 ≤ 64 / p then 8 else if 4 ≤ 64 / p then 4 else if 2 ≤ 64 / p then 2 else 1
/-- cpg: cycles per K-group. -/
def pairCpg (fa fb : Fmt) : Nat := (pairP fa fb + 63) / 64

/-- Whether the format is a floating-point one (codes 8 to 13). -/
def fmtIsFloat (f : Fmt) : Bool := 8 ≤ f.toNat && f.toNat ≤ 13
/-- Whether the format is a two's complement one (I8, I16, I32, I4, I2). -/
def fmtIsSigned (f : Fmt) : Bool :=
  match f.toNat with
  | 0 | 2 | 4 | 5 | 14 => true
  | _ => false
/-- Whether the format holds integers, QN4 included. -/
def fmtIsInt (f : Fmt) : Bool := f.toNat ≤ 7 || f.toNat == 14
/-- Group FA of R288. -/
def fmtFA (f : Fmt) : Bool := f.toNat == 12 || f.toNat == 10 || f.toNat == 11 || f.toNat == 13
/-- Group IA of R288. -/
def fmtIA (f : Fmt) : Bool := f.toNat ≤ 4
/-- Group ST of R288. -/
def fmtST (f : Fmt) : Bool := f.toNat != 7 && f.toNat != 15

/-- Fraction bits n of a floating-point format. -/
def fracBits (f : Fmt) : Nat :=
  match f.toNat with
  | 8 => 3
  | 9 => 2
  | 10 => 7
  | 11 => 10
  | 12 => 23
  | _ => 9
/-- Bias B of a floating-point format. -/
def fmtBias (f : Fmt) : Nat :=
  match f.toNat with
  | 8 => 7
  | 9 => 15
  | 10 => 127
  | 11 => 15
  | 12 => 127
  | _ => 31
/-- The all-ones exponent field emax. -/
def expMax (f : Fmt) : Nat := 2 ^ (fmtBits f - 1 - fracBits f) - 1
/-- The canonical NaN of a floating-point format (R78). -/
def canonNaN (f : Fmt) : Nat :=
  match f.toNat with
  | 8 => 0x7F
  | 9 => 0x7E
  | 10 => 0x7FC0
  | 11 => 0x7E00
  | 12 => 0x7FC00000
  | _ => 0x7F00
/-- The pattern of the largest finite magnitude (R76). -/
def largestPat (f : Fmt) : Nat := if f.toNat = 8 then 0x7E else expMax f * 2 ^ fracBits f - 1
/-- The pattern of +∞; E4M3 has none and takes its largest finite value (R83). -/
def infPat (f : Fmt) : Nat := if f.toNat = 8 then 0x7E else expMax f * 2 ^ fracBits f
/-- The sign bit's place value. -/
def signPat (f : Fmt) (neg : Bool) : Nat := if neg then 2 ^ (fmtBits f - 1) else 0

/-! ### Flags (R104) -/

def flNV : Byte := 1
def flOF : Byte := 2
def flUF : Byte := 4
def flNX : Byte := 8
def flDZ : Byte := 16
def flSAT : Byte := 32
def flNANIN : Byte := 64
def flOOB : Byte := 128

/-- b ? f : none. -/
def flagIf (b : Bool) (f : Byte) : Byte := if b then f else 0

/-- An element to be written: its bits, the flags it raises, and how many clamps it counts in SATC (R86, R106). -/
structure Res where
  bits : Nat
  flags : Byte
  satc : Nat
deriving DecidableEq, Repr

/-! ### Exact values -/

/-- An exact value: NaN, an infinity, or (−1)^neg × m × 2^e; a zero keeps its sign (R77, R78). -/
inductive Val where
  | nan
  | inf (neg : Bool)
  | num (neg : Bool) (m : Nat) (e : Int)
deriving DecidableEq, Repr

/-- The codebook of QN4 (R81). -/
def qn4Value (c : Nat) : Int :=
  [-127, -96, -72, -53, -37, -23, -11, 0, 9, 19, 30, 42, 56, 73, 95, 127].getD c 0

/-- Two's complement reading of the low w bits of x. -/
def sint (w x : Nat) : Int :=
  let y := x % 2 ^ w
  if 2 ^ w ≤ 2 * y then (y : Int) - (2 ^ w : Nat) else y

/-- wrap(v, w): the low w bits of an integer. -/
def wrapN (w : Nat) (v : Int) : Nat := (v % (2 ^ w : Nat)).toNat

/-- An integer as an exact value. -/
def Val.ofInt (v : Int) : Val := .num (v < 0) v.natAbs 0

/-- The integer that an element of an integer format holds (R76, R81). -/
def intOf (f : Fmt) (x : Nat) : Int :=
  if f.toNat = 7 then qn4Value (x % 16)
  else if fmtIsSigned f then sint (fmtBits f) x
  else ((x % 2 ^ fmtBits f : Nat) : Int)

/-- decode(f, x) for a floating-point format (R77, R78). -/
def decodeFloat (f : Fmt) (x : Nat) : Val :=
  let n := fracBits f
  let neg := decide (2 ^ (fmtBits f - 1) ≤ x % 2 ^ fmtBits f)
  let ef := x / 2 ^ n % (expMax f + 1)
  let fr := x % 2 ^ n
  let emin : Int := 1 - (fmtBias f : Int) - n
  if ef = 0 then .num neg fr emin
  else if ef = expMax f ∧ ¬ (f.toNat = 8 ∧ fr ≠ 7) then
    (if fr = 0 ∧ f.toNat ≠ 8 then .inf neg else .nan)
  else .num neg (2 ^ n + fr) (emin + ef - 1)

/-- decode(f, x): the exact value of an element (R77, R81, R82). -/
def decodeVal (f : Fmt) (x : Nat) : Val :=
  if fmtIsFloat f then decodeFloat f x else Val.ofInt (intOf f x)

/-! ### Rounding (R83 to R86) -/

/-- The place of an exact value between two grid points: the truncation's k, whether something is discarded, whether
that exceeds or equals one half, and floor(d × 2^24). -/
structure Cut where
  k : Nat
  some : Bool
  above : Bool
  half : Bool
  keyed : Nat
deriving DecidableEq, Repr

/-- Cuts m × 2^e (plus less than one unit 2^e when sticky) at the grid 2^q. -/
def cutAt (m : Nat) (e q : Int) (sticky : Bool) : Cut :=
  if q ≤ e then { k := m * 2 ^ (e - q).toNat, some := sticky, above := false, half := false, keyed := 0 }
  else
    let sh := (q - e).toNat
    let r := m % 2 ^ sh
    { k := m / 2 ^ sh, some := r != 0 || sticky,
      above := decide (2 ^ sh < 2 * r) || (decide (2 ^ sh = 2 * r) && sticky),
      half := decide (2 ^ sh = 2 * r) && !sticky, keyed := r * 2 ^ 24 / 2 ^ sh }

/-- Whether the mode moves away from zero (R85); bits are the element's 24 keyed bits (R88). -/
def roundsAway (mode : Nat) (neg : Bool) (c : Cut) (bits : Nat) : Bool :=
  c.some &&
  match mode with
  | 0 => c.above || (c.half && c.k % 2 == 1)
  | 1 => false
  | 2 => neg
  | 3 => !neg
  | 4 => c.above || c.half
  | 5 => decide (bits < c.keyed)
  | _ => c.k % 2 == 0

/-- The value that an overflow takes (R83). -/
def overflowPat (f : Fmt) (mode : Nat) (neg : Bool) : Nat :=
  let toInf := match mode with
    | 0 | 4 | 5 => true
    | 2 => neg
    | 3 => !neg
    | _ => false
  signPat f neg + (if toInf then infPat f else largestPat f)

/-- round for a floating-point format (R83, R84, R86): m × 2^e, plus a discarded part below 2^e when sticky. -/
def roundFloat (f : Fmt) (mode bits : Nat) (neg : Bool) (m : Nat) (e : Int) (sticky : Bool) : Res :=
  let n := fracBits f
  let emin : Int := 1 - fmtBias f
  let ev : Int := e + Nat.log2 m
  let q := max ev emin - n
  let c := cutAt m e q sticky
  let k := if roundsAway mode neg c bits then c.k + 1 else c.k
  let uf := flagIf (c.some && decide (ev < emin)) flUF
  let nx := flagIf c.some flNX
  let bump := decide (2 ^ (n + 1) ≤ k)
  let k' := if bump then k / 2 else k
  let q' := if bump then q + 1 else q
  let ef := if k' < 2 ^ n then 0 else (q' + n + fmtBias f).toNat
  let mag := if k' < 2 ^ n then k' else ef * 2 ^ n + (k' - 2 ^ n)
  if largestPat f < mag then { bits := overflowPat f mode neg, flags := flOF ||| flNX ||| uf, satc := 0 }
  else { bits := signPat f neg + mag, flags := nx ||| uf, satc := 0 }

/-- sats or satu at the width of f (R86): the clamped integer and whether it was clamped. -/
def clampInt (f : Fmt) (v : Int) : Int × Bool :=
  let w := fmtBits f
  let hi : Int := if fmtIsSigned f then (2 ^ (w - 1) : Nat) - 1 else (2 ^ w : Nat) - 1
  let lo : Int := if fmtIsSigned f then -((2 ^ (w - 1) : Nat) : Int) else 0
  if hi < v then (hi, true) else if v < lo then (lo, true) else (v, false)

/-- A clamped integer as an element: SAT and one count when it was clamped, but no NX (the forms sats and satu that
are not part of a rounding). -/
def satInt (f : Fmt) (v : Int) : Res :=
  let c := clampInt f v
  { bits := wrapN (fmtBits f) c.1, flags := flagIf c.2 flSAT, satc := if c.2 then 1 else 0 }

/-- round for an integer format (R86). -/
def roundInt (f : Fmt) (mode bits : Nat) (neg : Bool) (m : Nat) (e : Int) (sticky : Bool) : Res :=
  let c := cutAt m e 0 sticky
  let k := if roundsAway mode neg c bits then c.k + 1 else c.k
  let v : Int := if neg then -(k : Int) else k
  let r := satInt f v
  { r with flags := r.flags ||| flagIf (c.some || r.satc != 0) flNX }

/-- round(v, f, mode) for (−1)^neg × m × 2^e (R86). A zero keeps its sign in a floating-point format. -/
def roundTo (f : Fmt) (mode bits : Nat) (neg : Bool) (m : Nat) (e : Int) (sticky : Bool := false) : Res :=
  if m = 0 then { bits := if fmtIsFloat f then signPat f neg else 0, flags := 0, satc := 0 }
  else if fmtIsFloat f then roundFloat f mode bits neg m e sticky
  else roundInt f mode bits neg m e sticky

/-- The canonical NaN with given flags; an integer destination takes 0 with NV and NANIN (R78, R82). -/
def nanRes (f : Fmt) (fl : Byte) : Res :=
  if fmtIsFloat f then { bits := canonNaN f, flags := fl, satc := 0 }
  else { bits := 0, flags := fl ||| flNV, satc := 0 }

/-- An infinite source (R82): an infinity, or E4M3's ±448 with OF and NX; an integer format's extreme with NV and NX. -/
def infRes (f : Fmt) (neg : Bool) : Res :=
  if fmtIsFloat f then
    { bits := signPat f neg + infPat f, flags := flagIf (f.toNat == 8) (flOF ||| flNX), satc := 0 }
  else
    let w := fmtBits f
    let hi := if fmtIsSigned f then 2 ^ (w - 1) - 1 else 2 ^ w - 1
    let lo := if fmtIsSigned f then 2 ^ (w - 1) else 0
    { bits := if neg then lo else hi, flags := flNV ||| flNX, satc := 0 }

/-- The conversion of R82 of an exact value. An I32 value of more than 24 significant bits, which R82 calls exact in FP32 and
which cannot be, is rounded and sets NX, as R84 and R86 round a finite value (DEDUCED, log 71). -/
def convert (f : Fmt) (mode bits : Nat) : Val → Res
  | .nan => nanRes f flNANIN
  | .inf neg => infRes f neg
  | .num neg m e => roundTo f mode bits neg m e

/-! ### Exact sums (R97, R98, R291, R297) -/

/-- An exact sum under way: what its addends were, and their finite part m × 2^e. -/
structure Sum where
  nanin : Bool := false
  inv : Bool := false
  pinf : Bool := false
  ninf : Bool := false
  anyPos : Bool := false
  anyNeg : Bool := false
  m : Int := 0
  e : Int := 0
deriving DecidableEq, Repr

/-- The sum m1 × 2^e1 + m2 × 2^e2 at the lesser exponent. -/
def addScaled (m1 : Int) (e1 : Int) (m2 : Int) (e2 : Int) : Int × Int :=
  if m1 = 0 then (m2, e2)
  else if m2 = 0 then (m1, e1)
  else if e1 ≤ e2 then (m1 + m2 * (2 ^ (e2 - e1).toNat : Nat), e1)
  else (m1 * (2 ^ (e1 - e2).toNat : Nat) + m2, e2)

/-- Adds one exact value. -/
def Sum.add (s : Sum) : Val → Sum
  | .nan => { s with nanin := true }
  | .inf neg => if neg then { s with ninf := true } else { s with pinf := true }
  | .num neg m e =>
    let t := addScaled s.m s.e (if neg then -(m : Int) else m) e
    { s with m := t.1, e := t.2, anyNeg := s.anyNeg || neg, anyPos := s.anyPos || !neg }

/-- A product: NaN if an operand is NaN, none for 0 × ∞, its sign the exclusive OR (R98, R291). -/
def mulVal : Val → Val → Option Val
  | .nan, _ => some .nan
  | _, .nan => some .nan
  | .inf a, .inf b => some (.inf (a != b))
  | .inf a, .num b m _ => if m = 0 then none else some (.inf (a != b))
  | .num a m _, .inf b => if m = 0 then none else some (.inf (a != b))
  | .num a m e, .num b m' e' => some (.num (a != b) (m * m') (e + e'))

/-- Adds a product; 0 × ∞ makes the sum NaN with NV. -/
def Sum.addProd (s : Sum) (a b : Val) : Sum :=
  match mulVal a b with
  | some v => s.add v
  | none => { s with inv := true }

/-- Whether the sum is NaN (R98). -/
def Sum.isNaN (s : Sum) : Bool := s.nanin || s.inv || (s.pinf && s.ninf)
/-- The flags of a NaN sum: NANIN for a NaN that was read, NV for 0 × ∞ and for infinities of both
signs; both where vx.fma meets 0 × ∞ and a NaN (R79, R291; DESIGN CHOICE, log 73). -/
def Sum.nanFlags (s : Sum) : Byte := flagIf s.nanin flNANIN ||| flagIf (s.inv || (s.pinf && s.ninf)) flNV

/-- The sign of an exactly zero sum (R98, R291): −0 when every addend is −0, and under RDN also for addends of
opposite signs. -/
def Sum.zeroNeg (s : Sum) (mode : Nat) : Bool := s.anyNeg && (!s.anyPos || mode == 2)

/-- The sum, rounded once (R97, R291, R297). -/
def Sum.finish (s : Sum) (f : Fmt) (mode bits : Nat) : Res :=
  if s.isNaN then { nanRes f s.nanFlags with flags := s.nanFlags }
  else if s.pinf || s.ninf then infRes f s.ninf
  else if s.m = 0 then roundTo f mode bits (s.zeroNeg mode) 0 0
  else roundTo f mode bits (decide (s.m < 0)) s.m.natAbs s.e

/-- The exact value that a sum stands for, and the flags it raised on the way (NaN sums). -/
def Sum.val (s : Sum) : Val × Byte :=
  if s.isNaN then (.nan, s.nanFlags)
  else if s.pinf || s.ninf then (.inf s.ninf, 0)
  else if s.m = 0 then (.num (s.zeroNeg 0) 0 0, 0)
  else (.num (decide (s.m < 0)) s.m.natAbs s.e, 0)

/-! ### Keyed stochastic rounding (R87 to R91) -/

/-- mix64 (R88). -/
def mix64 (x0 : Word) : Word :=
  let x1 := x0 ^^^ (x0 >>> 32)
  let x2 := x1 * 0xA0C35E917B24D6F5#64
  let x3 := x2 ^^^ (x2 >>> 29)
  let x4 := x3 * 0xC4E19B073A5D82E9#64
  x4 ^^^ (x4 >>> 32)

/-- srkbits (R88): coord is taken modulo 2^48. -/
def srkBits (seed : Word) (stream : BitVec 16) (coord : Nat) (step : Word) : Nat :=
  let a := mix64 (seed + 0x6E2B13D79F40A5C3#64)
  let b := mix64 (a ^^^ (stream.setWidth 64 <<< 48) ^^^ BitVec.ofNat 64 (coord % 2 ^ 48))
  let c := mix64 (b ^^^ (step * 0x8F1C7A5326E9B0D1#64))
  (c.extractLsb' 40 24).toNat

/-- The linearised coordinate of R90: Σ over k of ik × D0 × … × D(k−1), modulo 2^48. -/
def linearCoord : List Nat → List Int → Int → Int → Nat
  | d :: ds, i :: is, mult, acc => linearCoord ds is (mult * d) (acc + mult * i)
  | _, _, _, acc => (acc % (2 ^ 48 : Nat)).toNat

/-! ### Order, bins and extremes -/

/-- Comparison of two exact values that are not NaN: −1, 0 or 1; ±0 are equal. -/
def cmpVal : Val → Val → Int
  | .inf a, .inf b => if a = b then 0 else if a then -1 else 1
  | .inf a, _ => if a then -1 else 1
  | _, .inf b => if b then 1 else -1
  | .num a m e, .num b m' e' =>
    let d := (addScaled (if a then -(m : Int) else m) e (if b then (m' : Int) else -m') e').1
    if d < 0 then -1 else if d = 0 then 0 else 1
  | .nan, _ => 0
  | _, .nan => 0

/-- The sign of an exact value. -/
def Val.isNeg : Val → Bool
  | .nan => false
  | .inf n => n
  | .num n _ _ => n
/-- Whether a value is NaN. -/
def Val.isNaN : Val → Bool
  | .nan => true
  | .inf _ => false
  | .num _ _ _ => false
/-- Whether a value is ±0. -/
def Val.isZero : Val → Bool
  | .num _ m _ => m == 0
  | .inf _ => false
  | .nan => false

/-- Whether a is below b where −0 counts as less than +0 (R291, R322); no NaN. -/
def belowVal (a b : Val) : Bool :=
  let c := cmpVal a b
  c < 0 || (c == 0 && a.isNeg && !b.isNeg)

/-- floor(log2 |v|) of a finite non-zero value. -/
def floorLog2 (m : Nat) (e : Int) : Int := (Nat.log2 m : Int) + e

/-- clamp(x, lo, hi) (R100, R299). -/
def clampTo (x lo hi : Int) : Int := if x < lo then lo else if hi < x then hi else x

/-- The bin of a histogram (R100): 0 to 63, 64 ZERO, 65 SUB, 66 INF, 67 NAN. -/
def histBin (f : Fmt) (hbase : Int) (x : Nat) : Nat :=
  match decodeVal f x with
  | .nan => 67
  | .inf _ => 66
  | .num _ m e =>
    if m = 0 then 64
    else if fmtIsFloat f && decide (m < 2 ^ fracBits f) then 65
    else (clampTo (floorLog2 m e - hbase) 0 63).toNat

end Sys2Proof.Machine
end

