-- ==== Sys2Proof/Syntax.lean ====
section
/-! DEFINITION. Instr, one constructor for each row of spec/opcode_table.json: generator instructions, engine words
with their attached prefixes, command packets, yard commands and the events that the hardware performs itself.
Fields keep the widths of the encodings, so that a value the engine judges illegal (R55) can be written down. -/
namespace Sys2Proof

/-- The computational register-register instructions of RV64I, M, Zba and Zbb (R37). -/
inductive AluRR where
  | add | sub | sll | slt | sltu | xor | srl | sra | or | and
  | addw | subw | sllw | srlw | sraw
  | mul | mulh | mulhsu | mulhu | div | divu | rem | remu
  | mulw | divw | divuw | remw | remuw
  | addUw | sh1add | sh2add | sh3add | sh1addUw | sh2addUw | sh3addUw
  | andn | orn | xnor | max | maxu | min | minu | rol | ror | rolw | rorw
deriving DecidableEq, Repr

/-- The register-immediate instructions with a 12-bit immediate (R37). -/
inductive AluRI where
  | addi | slti | sltiu | xori | ori | andi | addiw
deriving DecidableEq, Repr

/-- The register-immediate shifts; the word forms take a 5-bit amount (R37). -/
inductive AluSh where
  | slli | srli | srai | slliw | srliw | sraiw | slliUw | rori | roriw
deriving DecidableEq, Repr

/-- The Zbb unary instructions (R37). -/
inductive AluU where
  | clz | ctz | cpop | clzw | ctzw | cpopw | sextB | sextH | zextH | orcB | rev8
deriving DecidableEq, Repr

/-- INTEGER_ALU: every computational instruction of RV64I, M, Zba and Zbb (R37). -/
inductive Alu where
  | rr (op : AluRR) (rd rs1 rs2 : Reg)
  | ri (op : AluRI) (rd rs1 : Reg) (imm : BitVec 12)
  | sh (op : AluSh) (rd rs1 : Reg) (amt : BitVec 6)
  | un (op : AluU) (rd rs1 : Reg)
  | lui (rd : Reg) (imm : BitVec 20)
  | auipc (rd : Reg) (imm : BitVec 20)
deriving DecidableEq, Repr

/-- Width and extension of a load (R37, R46): the size codes 0 to 6. -/
inductive LoadW where
  | b | h | w | d | bu | hu | wu
deriving DecidableEq, Repr

/-- Width of a store (R37, R46). -/
inductive StoreW where
  | b | h | w | d
deriving DecidableEq, Repr

/-- The conditional branches (R37). -/
inductive BranchOp where
  | beq | bne | blt | bge | bltu | bgeu
deriving DecidableEq, Repr

/-- JUMP_BRANCH (R43): offsets are held without their zero bit 0. -/
inductive Jump where
  | jal (rd : Reg) (off : BitVec 20)
  | jalr (rd rs1 : Reg) (off : BitVec 12)
  | br (op : BranchOp) (rs1 rs2 : Reg) (off : BitVec 12)
deriving DecidableEq, Repr

/-- The AMOs of R224. -/
inductive AmoOp where
  | swap | add | xor | and | or | min | max | minu | maxu | cas
deriving DecidableEq, Repr

/-- The six Zicsr instructions: the operand is a register number or a 5-bit immediate (R37). -/
inductive CsrOp where
  | rw | rs | rc | rwi | rsi | rci
deriving DecidableEq, Repr

/-- The fields of a vector word that names three slots (R50, R288). -/
structure VxF where
  s : BitVec 3
  d : BitVec 4
  a : BitVec 4
  b : BitVec 4
  t : BitVec 4
  r : BitVec 3
  m : BitVec 1
deriving DecidableEq, Repr

/-- The fields of a vector word whose VB is reserved (R288, R290). -/
structure VxU where
  s : BitVec 3
  d : BitVec 4
  a : BitVec 4
  t : BitVec 4
  r : BitVec 3
  m : BitVec 1
deriving DecidableEq, Repr

/-- The pairing prefix of an array word (R251). -/
structure MxPair where
  fa : BitVec 4
  fb : BitVec 4
  so : BitVec 1
  sat : BitVec 1
  ga2 : BitVec 1
  gb2 : BitVec 1
  g : BitVec 14
deriving DecidableEq, Repr

/-- The window prefix of mx.mmh (R257). -/
structure MxWin where
  ow1 : BitVec 7
  ww1 : BitVec 7
  ry1 : BitVec 3
  rx1 : BitVec 3
  dil1 : BitVec 2
deriving DecidableEq, Repr

/-- The word and prefix fields of mx.rq (R264). -/
structure MxRq where
  osgn : BitVec 1
  rnd : BitVec 3
  z : BitVec 9
  oz : BitVec 9
  tm : BitVec 8
  ts : BitVec 8
  rsen : BitVec 1
  set : BitVec 1
  zaft : BitVec 1
  tr : BitVec 8
  td : BitVec 8
deriving DecidableEq, Repr

/-- The fields of kx.spmm, kx.bspmm and kx.sddmm: `flag` is ACC or MUL, `tx` is TV or TA, `out` is TC or TO (R338). -/
structure KxMul where
  flag : BitVec 1
  tx : BitVec 8
  ti : BitVec 8
  tb : BitVec 8
  out : BitVec 8
  rnd : BitVec 3
  sat : BitVec 1
deriving DecidableEq, Repr

/-- The word fields common to sort words (R343). -/
structure KxKey where
  kt : BitVec 2
  desc : BitVec 1
  ven : BitVec 1
  tv : BitVec 8
  tk : BitVec 8
deriving DecidableEq, Repr

/-- A packet address: BUFID and a 40-bit offset (chapter Command packets, R371). -/
structure PAddr where
  buf : BufId
  off : BitVec 40
deriving DecidableEq, Repr

/-- What a host or peer request does to the bytes it names (R201, R406). -/
inductive MemReq where
  | read (n : BitVec 4)
  | write (bytes : List Byte)
  | add (v : Word)
deriving DecidableEq, Repr

/-- How the parts of a boot outside the ROM's own checks end (R408, R409): UCIe training, HBM, chiplet firmware, timeout. -/
inductive BootEnd where
  | good | ucie | hbm | chiplet | timeout
deriving DecidableEq, Repr

/-- One constructor for each row of spec/opcode_table.json.
A generator instruction acts on the bay State.cur; an engine word acts as the head of its queue in that bay
(a sync word in queue State.curQ); a packet acts in submission queue State.curSq; an event names its agent. -/
inductive Instr where
  -- the emit path and the generator (04_generator.md)
  | emit (rs1 : Reg)
  | emit2 (rs1 : Reg)
  | emitnb (rd rs1 : Reg)
  | emits (rs1 rs2 : Reg)
  | emitq (rd rs1 : Reg)
  | roomAccept (bay : BayNo)
  | accrd (rd rd2 rs1 : Reg)
  | bfext (rd rs1 : Reg) (pos len1 : BitVec 6)
  | bfins (rd rs1 : Reg) (pos len1 : BitVec 6)
  | bbc (n : BitVec 12)
  | trmark (rs1 : Reg) (tag : BitVec 12)
  | lbC (rd rs1 : Reg) (off : BitVec 8) (cls : BitVec 4)
  | lhC (rd rs1 : Reg) (off : BitVec 8) (cls : BitVec 4)
  | lwC (rd rs1 : Reg) (off : BitVec 8) (cls : BitVec 4)
  | ldC (rd rs1 : Reg) (off : BitVec 8) (cls : BitVec 4)
  | lbuC (rd rs1 : Reg) (off : BitVec 8) (cls : BitVec 4)
  | lhuC (rd rs1 : Reg) (off : BitVec 8) (cls : BitVec 4)
  | lwuC (rd rs1 : Reg) (off : BitVec 8) (cls : BitVec 4)
  | sbC (rs2 rs1 : Reg) (off : BitVec 8) (cls : BitVec 4)
  | shC (rs2 rs1 : Reg) (off : BitVec 8) (cls : BitVec 4)
  | swC (rs2 rs1 : Reg) (off : BitVec 8) (cls : BitVec 4)
  | sdC (rs2 rs1 : Reg) (off : BitVec 8) (cls : BitVec 4)
  | rv64Load (x : LoadW) (rd rs1 : Reg) (imm : BitVec 12)
  | rv64Store (x : StoreW) (rs2 rs1 : Reg) (imm : BitVec 12)
  | rv64Amo (op : AmoOp) (dbl aq rl : BitVec 1) (rd rs1 rs2 : Reg)
  | jumpBranch (j : Jump)
  | fence (fm pred succ : BitVec 4) (rs1 rd : Reg)
  | fenceI (imm : BitVec 12) (rs1 rd : Reg)
  | ecall
  | ebreak
  | xret (machine : BitVec 1)
  | csrAccess (op : CsrOp) (rd src : Reg) (csr : BitVec 12)
  | fenceCm (mask : BitVec 15) (scope : BitVec 3)
  -- tiles, capabilities and descriptors (05_tiles_capabilities.md)
  | talloc (rd rs1 rs2 : Reg)
  | tfree (rs1 : Reg)
  | markerPass (bay : BayNo) (q : QId)
  | tinfo (rd rs1 : Reg)
  | twait (rs1 rs2 : Reg)
  | tstat (rd rs1 : Reg)
  | btst (rd rs1 rs2 : Reg)
  | capNew (rd rs1 rs2 : Reg)
  | capShare (rs1 rs2 : Reg)
  | capXfer (rs1 rs2 : Reg)
  | capabilityWaitDone (bay : BayNo)
  | capDrop (rs1 : Reg)
  | capNarrow (rs1 rs2 : Reg)
  | capInfo (rd rs1 : Reg)
  | yardAcknowledge (bay : BayNo)
  | tdSet (rs1 rs2 : Reg)
  | tdGet (rd rs1 : Reg)
  | tdBind (rs1 rs2 : Reg)
  -- barriers, rings and AMOs (06_ordering.md)
  | barInit (rs1 rs2 : Reg)
  | barArrive (rs1 : Reg)
  | barWait (rs1 rs2 : Reg)
  | barWaitSatisfied (bay : BayNo)
  | ringPut (rs1 rs2 : Reg)
  | ringSlotFreed (shed : BitVec 4) (ring : BitVec 3)
  | ringGet (rd rs1 rs2 : Reg)
  | ringGetSatisfied (bay : BayNo)
  | ringDone (rs1 : Reg)
  | waitExpired (bay : BayNo)
  | amoPkmin (aq rl : BitVec 1) (rd rs1 rs2 : Reg)
  | amoPkmax (aq rl : BitVec 1) (rd rs1 rs2 : Reg)
  -- tasks (11_yard.md) and system instructions (12_system.md)
  | taskSpawn (rd rs1 : Reg)
  | taskDec (rs1 : Reg)
  | taskEnd
  | taskAbort
  | taskArg (rd rs1 : Reg)
  | taskId (rd : Reg)
  | bayResume
  | bayFlush (rs1 : Reg)
  | qstat (rd rs1 : Reg)
  | queueTake (bay : BayNo)
  -- sync words (06_ordering.md)
  | syNop (mask : BitVec 5)
  | syNotify (mask : BitVec 5) (token : BitVec 19)
  | syArrive (mask : BitVec 5) (b : BitVec 7)
  | syWait (mask : BitVec 5) (b : BitVec 7)
  | syRdv (mask : BitVec 5)
  | syFence (mask : BitVec 5) (scope : BitVec 3) (cls : BitVec 15)
  | sySlip (mask : BitVec 5) (depth : BitVec 4)
  | syRound (mask : BitVec 5)
  | syRoundLeave (bay : BayNo) (q : QId)
  -- matrix words (07_matrix.md)
  | mxCfg (m1 n1 : BitVec 7) (afmt sa sb : BitVec 1)
  | mxMma (p : MxPair) (set ovw : BitVec 1) (cl : BitVec 4) (ta tb : BitVec 8)
  | mxMmw (p : MxPair) (set ovw : BitVec 1) (kb : BitVec 9) (cl : BitVec 4) (ta : BitVec 8)
  | mxMmh (p : MxPair) (w : MxWin) (set ovw : BitVec 1) (cl : BitVec 4) (tx tb : BitVec 8)
  | mxGroupRetire (bay : BayNo)
  | mxLdw (g1 so : BitVec 1) (koff : BitVec 9) (clr : BitVec 1) (cl : BitVec 4) (tw : BitVec 8)
  | mxInit (set : BitVec 1) (ti : BitVec 8)
  | mxZero (set : BitVec 1)
  | mxDrain (fd : BitVec 4) (rnd : BitVec 3) (g3 set zaft : BitVec 1) (cl : BitVec 4) (td : BitVec 8)
  | mxRq (f : MxRq)
  | mxSnap (set : BitVec 1) (td : BitVec 8)
  -- vector words (08_vector.md)
  | vxAdd (f : VxF)
  | vxSub (f : VxF)
  | vxMul (f : VxF)
  | vxFma (f : VxF)
  | vxMin (f : VxF)
  | vxMax (f : VxF)
  | vxAbs (f : VxU)
  | vxNeg (f : VxU)
  | vxAnd (f : VxF)
  | vxOr (f : VxF)
  | vxXor (f : VxF)
  | vxNot (f : VxU)
  | vxShl (f : VxF)
  | vxShr (f : VxF)
  | vxSra (f : VxF)
  | vxCeq (f : VxF)
  | vxCne (f : VxF)
  | vxClt (f : VxF)
  | vxCle (f : VxF)
  | vxSel (f : VxF)
  | vxCvt (f : VxU) (src : BitVec 4)
  | vxMov (f : VxU)
  | vxSet (s : BitVec 3) (d : BitVec 4) (k : W32) (t : BitVec 4) (r : BitVec 3) (m : BitVec 1)
  | vxExp2 (f : VxU)
  | vxLog2 (f : VxU)
  | vxRcp (f : VxU)
  | vxRsqrt (f : VxU)
  | vxSqrt (f : VxU)
  | vxSin (f : VxU)
  | vxCos (f : VxU)
  | vxTanh (f : VxU)
  | vxRsum (f : VxU)
  | vxRmin (f : VxU)
  | vxRmax (f : VxU)
  | vxSsum (f : VxU)
  | vxSmin (f : VxU)
  | vxSmax (f : VxU)
  | vxGath (f : VxF)
  | vxScat (f : VxF)
  | vxCmpct (f : VxF)
  | vxHist (f : VxU) (nbin1 : BitVec 10) (mode : BitVec 1) (base : BitVec 8)
  | vxSlot (s : BitVec 3) (d : BitVec 4) (tile : BitVec 8) (off : BitVec 24) (stride : BitVec 16) (count : BitVec 16)
  | vxSeg (s : BitVec 3) (d : BitVec 4) (tile tl : BitVec 8) (off : BitVec 24) (nseg : BitVec 16)
  | vxChk (s : BitVec 3) (on : BitVec 1)
  | vxWriteLand (bay : BayNo)
  -- copy words (09_copy.md); `q` is 0 for cin and 1 for cout where one row stands for both queues
  | cpLoop (q : BitVec 1) (lev dsel : BitVec 3) (cnt1 : BitVec 12) (nlev : BitVec 4) (step : BitVec 16)
  | cpOrg (q : BitVec 1) (val : BitVec 24) (add : BitVec 1) (comp : BitVec 3)
  | cpPad (q : BitVec 1) (pad : W32)
  | cpIn (c : BitVec 4) (t : BitVec 12) (h : BitVec 8)
  | cpInCout (c : BitVec 4) (t : BitVec 12) (h : BitVec 8)
  | cpOut (c : BitVec 4) (t : BitVec 12) (h : BitVec 8)
  | cpOutCin (c : BitVec 4) (t : BitVec 12) (h : BitVec 8)
  | cpFill (t : BitVec 12) (h : BitVec 8)
  | cpFillCin (t : BitVec 12) (h : BitVec 8)
  | cpT2t (q : BitVec 1) (t : BitVec 12) (src tdst : BitVec 8) (rnd : BitVec 3)
  | cpGath (q : BitVec 1) (c : BitVec 4) (t : BitVec 12) (h ti : BitVec 8)
  | cpScat (q : BitVec 1) (c : BitVec 4) (t : BitVec 12) (h ti : BitVec 8)
  | cpRed (q : BitVec 1) (c : BitVec 4) (t : BitVec 12) (h : BitVec 8) (op : BitVec 2) (rnd : BitVec 3) (res : BitVec 1)
      (tr : BitVec 8)
  | cpPeer (q : BitVec 1) (c : BitVec 4) (t : BitVec 12) (h : BitVec 8) (sig : BitVec 1) (std : BitVec 12)
  | cpDrain (c : BitVec 4) (scope : BitVec 3)
  | cpDrainCin (c : BitVec 4) (scope : BitVec 3)
  | copyComplete (bay : BayNo) (q : BitVec 1) (k : BitVec 2)
  | copySourceRead (bay : BayNo) (q : BitVec 1) (k : BitVec 2)
  | reductionAtHome (k : Nat)
  | histogramIncrement (k : Nat)
  | sidecarMerge (k : Nat)
  -- class-engine words (10_class_engines.md)
  | kxIld (ts ti : BitVec 8)
  | kxSpmm (f : KxMul)
  | kxBspmm (f : KxMul)
  | kxSddmm (f : KxMul)
  | kxSpadd (neg blk : BitVec 1) (tv ti tc : BitVec 8) (rnd : BitVec 3) (sat : BitVec 1)
  | kxSort (f : KxKey) (n : BitVec 16) (tcn : BitVec 8) (cen : BitVec 1)
  | kxMerge (f : KxKey) (tl : BitVec 8) (nseg : BitVec 16)
  | kxSsort (f : KxKey) (tl : BitVec 8) (nseg : BitVec 16)
  | kxCmpct (kt : BitVec 2) (ven : BitVec 1) (tv tk : BitVec 8) (n : BitVec 16) (tcn : BitVec 8) (cen : BitVec 1)
  | kxUniq (kt : BitVec 2) (ven : BitVec 1) (tv tk : BitVec 8)
  | kxTopk (f : KxKey) (n : BitVec 16) (k1 : BitVec 10)
  | classWordComplete (bay : BayNo)
  -- bay and yard events (11_yard.md, 12_system.md)
  | wordFaultInterrupt (bay : BayNo)
  | taskDispatch (cls : BitVec 2)
  | fallbackMove (cls : BitVec 2)
  | taskCompletion (bay : BayNo)
  | applyDecrement
  | graphEnd (g : BitVec 12)
  | preemption (cls : BitVec 2)
  | saveComplete (bay : BayNo)
  | restore (bay : BayNo)
  | hang (bay : BayNo)
  | saveTimeout (bay : BayNo)
  | contextKill (ctx : CtxNo) (cause : Byte) (task : TaskId) (bay : BayNo)
  -- submission queues and packets (11_yard.md)
  | doorbell (q : BitVec 6) (tail : BitVec 22)
  | sqReset (q : BitVec 6)
  | halt (q : BitVec 6)
  | haltClear (q : BitVec 6)
  | en (q : BitVec 6) (v : BitVec 1)
  | packetFetch (q : BitVec 6) (n : BitVec 7)
  | nop (ndw : BitVec 10)
  | launch (lix : BitVec 1) (a : PAddr) (tag : W32)
  | ind (a : PAddr) (len : BitVec 20)
  | pred (cmp : BitVec 3) (a : PAddr) (val : Word) (skip : BitVec 10)
  | loop (rep1 body1 : BitVec 8)
  | ffence
  | write (a : PAddr) (data : List W32)
  | wait (cmp : BitVec 3) (a : PAddr) (val : Word)
  | waitReread (q : BitVec 6)
  | signal (op : BitVec 2) (waitg : BitVec 1) (a : PAddr) (val : Word)
  | dma (src dst : PAddr) (count : W32)
  | iflush (buf : BufId)
  -- yard commands (12_system.md)
  | create (ctx : CtxNo)
  | destroy (ctx : CtxNo)
  | kill (ctx : CtxNo)
  | grant (ctx : CtxNo) (shed : BitVec 4) (ring : BitVec 1) (idx : BitVec 5)
  | revoke (ctx : CtxNo) (shed : BitVec 4) (ring : BitVec 1) (idx : BitVec 5)
  | hostbuf (ctx : CtxNo) (bus size : Word) (rights : BitVec 4)
  | imprt (ctx : CtxNo) (pkg pctx : BitVec 6) (pbuf : BufId) (rights : BitVec 4)
  | remap (ctx : CtxNo) (buf : BufId) (page : Word)
  | attest (nonce report : Word)
  | loadfw (addr len : Word)
  | commandCompletion
  -- debug, links, boot and power (12_system.md)
  | debugStopBay (bay : BayNo)
  | debugStopContext (ctx : CtxNo)
  | debugRestart
  | registerWrite (fn : BitVec 6) (off : BitVec 17) (val : Word)
  | hostMemoryRequest (ctx : CtxNo) (buf : BufId) (off : BitVec 48) (r : MemReq)
  | peerRequest (pkg : BitVec 6) (ctx : CtxNo) (buf : BufId) (off : BitVec 48) (r : MemReq)
  | linkReplay (link : BitVec 5) (vc : BitVec 2)
  | linkDown (link : BitVec 5) (cut : BitVec 64)
  | functionLevelReset (fn : BitVec 4)
  | boot (e : BootEnd)
  | throttle (shed : BitVec 4) (up : BitVec 1)
  | integerAlu (a : Alu)
  | wfi
  | illegalInstruction (w : W32)
  | mxLastRowWritten (bay : BayNo) (port : BitVec 1)
deriving DecidableEq, Repr

end Sys2Proof
end

