-- ==== Sys2Proof/WellFormed.lean ====
section
/-! DEFINITION. Which instructions are well formed: the checks that need nothing but the instruction itself.
For an engine word they are the encoding checks of R55 that a term of Instr can break (step 1 of R248, R279, R309 and
R331), with every field value that the word's entry calls illegal and that the fields alone show; for a generator instruction R49; for a packet R63 as far as its own dwords show it. -/
namespace Sys2Proof

/-- A format code other than 0xF (R76). -/
def fmtOk (f : BitVec 4) : Bool := f != 0xF#4
/-- A rounding code other than 7 (R85). -/
def rndOk (r : BitVec 3) : Bool := r != 7#3
/-- A scope code of R48. -/
def scopeOk (s : BitVec 3) : Bool := s.toNat < 5
/-- A class that a copy or matrix word may name: not 15 (R55, R245). -/
def classOk (c : BitVec 4) : Bool := c != 15#4
/-- A barrier operand that names a barrier (R52). -/
def barOperandOk (b : BitVec 7) : Bool := b.toNat < 96

/-- Types and rounding code of a vector word as its encoding shows them (R55). -/
def VxF.ok (f : VxF) : Bool := fmtOk f.t && rndOk f.r
/-- The same for a word whose VB is reserved. -/
def VxU.ok (f : VxU) : Bool := fmtOk f.t && rndOk f.r

/-- The illegal values of the pairing prefix (R251): G = 0, an operand format I32, format code 0xF. -/
def MxPair.ok (p : MxPair) : Bool :=
  p.g != 0 && p.fa != 4#4 && p.fb != 4#4 && fmtOk p.fa && fmtOk p.fb

/-- K of a pairing prefix: G × kd (R237). -/
def MxPair.depth (p : MxPair) : Nat := p.g.toNat * Machine.pairKd p.fa p.fb

/-- The window prefix of mx.mmh: RY and RX are 1 to 7 (R257), G × kd is a multiple of RY × RX, C a multiple of kd, and a
window row holds the taps of an output row (R258). -/
def MxWin.ok (w : MxWin) (p : MxPair) : Bool :=
  let taps := (w.ry1.toNat + 1) * (w.rx1.toNat + 1)
  w.ry1 != 7#3 && w.rx1 != 7#3 && p.depth % taps == 0 && p.depth / taps % Machine.pairKd p.fa p.fb == 0 &&
    decide (w.ow1.toNat + 1 + w.rx1.toNat * (w.dil1.toNat + 1) ≤ w.ww1.toNat + 1)

/-- TV is reserved, hence zero, when VEN = 0 (R343). -/
def KxKey.ok (f : KxKey) : Bool := f.ven == 1#1 || f.tv == 0#8

/-- The comparison codes 0 to 6 of R371. -/
def cmpOk (c : BitVec 3) : Bool := c != 7#3

/-- The amounts that a shift's encoding allows: five bits for the word forms. -/
def AluSh.amtOk : AluSh → BitVec 6 → Bool
  | .slliw, a | .srliw, a | .sraiw, a | .roriw, a => a.toNat < 32
  | .slli, _ | .srli, _ | .srai, _ | .slliUw, _ | .rori, _ => true

/-- Whether an instruction is well formed. An event is: whether its agent stands ready is no matter of syntax. That a PRED
which skips 0 packets, and a DMA of 0 bytes or of no multiple of 4, are bad packets is a DESIGN CHOICE (log 64, unsafe): R63
calls of such counts only an IND length of 0 reserved. -/
def Instr.wf : Instr → Bool
  | .bfext _ _ pos len1 | .bfins _ _ pos len1 => pos.toNat + len1.toNat + 1 ≤ 64
  | .emits rs1 rs2 => rs1 != 0 && rs2 != 0 && rs1 != rs2
  | .accrd rd rd2 _ => rd != rd2 || rd == 0
  | .fenceCm mask scope => mask != 0 && scopeOk scope
  | .integerAlu (.sh op _ _ amt) => op.amtOk amt
  | .syArrive _ b | .syWait _ b => barOperandOk b
  | .syFence _ scope _ => scopeOk scope
  | .mxMma p _ _ cl _ _ => p.ok && classOk cl
  | .mxMmw p _ _ _ cl _ => p.ok && p.gb2 == 0 && classOk cl
  | .mxMmh p w _ _ cl _ _ => p.ok && w.ok p && classOk cl
  | .mxLdw _ _ _ _ cl _ => classOk cl
  | .mxDrain fd rnd _ _ _ cl _ => fmtOk fd && fd != 7#4 && rndOk rnd && classOk cl
  | .mxRq f => rndOk f.rnd
  | .vxAdd f | .vxSub f | .vxMul f | .vxFma f | .vxMin f | .vxMax f => f.ok
  | .vxAnd f | .vxOr f | .vxXor f | .vxShl f | .vxShr f | .vxSra f => f.ok
  | .vxCeq f | .vxCne f | .vxClt f | .vxCle f => f.ok
  | .vxSel f => f.ok && f.m == 0
  | .vxGath f | .vxScat f => f.ok
  | .vxCmpct f => f.ok && f.m == 1
  | .vxAbs f | .vxNeg f | .vxNot f | .vxMov f => f.ok
  | .vxExp2 f | .vxLog2 f | .vxRcp f | .vxRsqrt f | .vxSqrt f | .vxSin f | .vxCos f | .vxTanh f => f.ok
  | .vxRsum f | .vxRmin f | .vxRmax f | .vxSsum f | .vxSmin f | .vxSmax f => f.ok
  | .vxCvt f src => f.ok && fmtOk src
  | .vxSet _ _ k t r _ => fmtOk t && rndOk r && decide (k.toNat < 2 ^ Machine.fmtBits t)
  | .vxHist f _ mode _ => f.ok && (mode == 1 || !Machine.fmtFA f.t)
  | .vxSlot _ _ _ _ stride count => stride != 0 && count != 0
  | .vxSeg _ _ _ _ _ nseg => nseg != 0
  | .cpIn c _ _ | .cpInCout c _ _ | .cpOut c _ _ | .cpOutCin c _ _ => classOk c
  | .cpT2t _ _ _ _ rnd => rndOk rnd
  | .cpGath _ c _ _ _ | .cpScat _ c _ _ _ => classOk c
  | .cpRed _ c _ _ _ rnd _ _ => classOk c && rndOk rnd
  | .cpPeer _ c _ _ _ _ => classOk c
  | .cpDrain c s | .cpDrainCin c s => classOk c && scopeOk s
  | .kxSpmm f | .kxBspmm f | .kxSddmm f => rndOk f.rnd
  | .kxSpadd _ _ _ _ _ rnd _ => rndOk rnd
  | .kxSort f _ _ _ | .kxMerge f _ _ | .kxSsort f _ _ | .kxTopk f _ _ => f.ok
  | .kxCmpct _ ven tv _ _ _ _ => ven == 1#1 || tv == 0#8
  | .kxUniq _ ven tv _ => ven == 1#1 || tv == 0#8
  | .ind _ len => len != 0
  | .pred cmp _ _ skip => cmpOk cmp && skip != 0
  | .wait cmp _ _ => cmpOk cmp
  | .write _ d => 1 ≤ d.length && d.length ≤ 1021
  | .signal op _ _ _ => op != 3#2
  | .dma _ _ n => n != 0 && n.toNat % 4 == 0
  | _ => true

end Sys2Proof
end

