-- ==== Sys2Proof/Decode.lean ====
section
/-! DEFINITION. The decoders, total on every word, and after them the encoder, both written from the encoding
tables of the spec: generator instructions (R37, R45 to R49), engine words with their prefixes (R50, R56 to R60 and
the word entries) and command packets (R61, R62, R371). -/
namespace Sys2Proof

/-- Why a word, its prefixes or a packet is no instruction (R64). -/
inductive DecodeError where
  /-- A generator encoding that is not assigned, or fails R49: illegal-instruction trap. -/
  | unassigned
  /-- An engine word of a reserved op, or of E = 6 or 7 (R55). -/
  | reservedOp
  /-- A word with the wrong number of prefixes, or a prefix for another engine (R53). -/
  | prefixCount
  /-- A reserved bit that is not zero, in the word or in a prefix (R55). -/
  | reservedBits
  /-- A field value that the encoding checks refuse (R55, R63). -/
  | illegalValue
  /-- A packet of a reserved OP or with an NDW outside its range (R63). -/
  | badPacket
deriving DecidableEq, Repr

/-- The n bits of w from bit lo upwards. -/
def field (w : W32) (lo n : Nat) : BitVec n := w.extractLsb' lo n

/-- i, unless its reserved bits or its values fail. -/
def checked (zero : Bool) (i : Instr) : Except DecodeError Instr :=
  if !zero then .error .reservedBits else if !i.wf then .error .illegalValue else .ok i

/-! ### Generator instructions -/

/-- A 12-bit I immediate. -/
def immI (w : W32) : BitVec 12 := field w 20 12
/-- A 12-bit S immediate. -/
def immS (w : W32) : BitVec 12 := field w 25 7 ++ field w 7 5
/-- A branch offset without its zero bit. -/
def immB (w : W32) : BitVec 12 := field w 31 1 ++ field w 7 1 ++ field w 25 6 ++ field w 8 4
/-- A jump offset without its zero bit. -/
def immJ (w : W32) : BitVec 20 := field w 31 1 ++ field w 12 8 ++ field w 20 1 ++ field w 21 10

/-- The loads by funct3 (R37). -/
def loadW? : Nat → Option LoadW
  | 0 => some .b | 1 => some .h | 2 => some .w | 3 => some .d | 4 => some .bu | 5 => some .hu | 6 => some .wu
  | _ => none

/-- The stores by funct3 (R37). -/
def storeW? : Nat → Option StoreW
  | 0 => some .b | 1 => some .h | 2 => some .w | 3 => some .d
  | _ => none

/-- The branches by funct3. -/
def branchOp? : Nat → Option BranchOp
  | 0 => some .beq | 1 => some .bne | 4 => some .blt | 5 => some .bge | 6 => some .bltu | 7 => some .bgeu
  | _ => none

/-- The AMOs by funct5; LR and SC (2 and 3) are refused (R38). -/
def amoOp? : Nat → Option AmoOp
  | 0 => some .add | 1 => some .swap | 4 => some .xor | 5 => some .cas | 8 => some .or | 12 => some .and
  | 16 => some .min | 20 => some .max | 24 => some .minu | 28 => some .maxu
  | _ => none

/-- The CSR instructions by funct3. -/
def csrOp? : Nat → Option CsrOp
  | 1 => some .rw | 2 => some .rs | 3 => some .rc | 5 => some .rwi | 6 => some .rsi | 7 => some .rci
  | _ => none

/-- OP (0x33): funct7 × 8 + funct3. -/
def opRR? : Nat → Option AluRR
  | 0 => some .add | 1 => some .sll | 2 => some .slt | 3 => some .sltu
  | 4 => some .xor | 5 => some .srl | 6 => some .or | 7 => some .and
  | 8 => some .mul | 9 => some .mulh | 10 => some .mulhsu | 11 => some .mulhu
  | 12 => some .div | 13 => some .divu | 14 => some .rem | 15 => some .remu
  | 44 => some .min | 45 => some .minu | 46 => some .max | 47 => some .maxu
  | 130 => some .sh1add | 132 => some .sh2add | 134 => some .sh3add
  | 256 => some .sub | 260 => some .xnor | 261 => some .sra | 262 => some .orn | 263 => some .andn
  | 385 => some .rol | 389 => some .ror
  | _ => none

/-- OP-32 (0x3B): funct7 × 8 + funct3. -/
def opRR32? : Nat → Option AluRR
  | 0 => some .addw | 1 => some .sllw | 5 => some .srlw
  | 8 => some .mulw | 12 => some .divw | 13 => some .divuw | 14 => some .remw | 15 => some .remuw
  | 32 => some .addUw
  | 130 => some .sh1addUw | 132 => some .sh2addUw | 134 => some .sh3addUw
  | 256 => some .subw | 261 => some .sraw
  | 385 => some .rolw | 389 => some .rorw
  | _ => none

/-- OP-IMM (0x13) unary instructions by their 12-bit immediate, funct3 = 1. -/
def unary1? : Nat → Option AluU
  | 0x600 => some .clz | 0x601 => some .ctz | 0x602 => some .cpop | 0x604 => some .sextB | 0x605 => some .sextH
  | _ => none

/-- OP-IMM (0x13) unary instructions by their 12-bit immediate, funct3 = 5. -/
def unary5? : Nat → Option AluU
  | 0x287 => some .orcB | 0x6B8 => some .rev8
  | _ => none

/-- OP-IMM-32 (0x1B) unary instructions by their 12-bit immediate, funct3 = 1. -/
def unary32? : Nat → Option AluU
  | 0x600 => some .clzw | 0x601 => some .ctzw | 0x602 => some .cpopw
  | _ => none

/-- OP-IMM (R37). -/
def decodeOpImm (w : W32) : Option Alu :=
  let rd := field w 7 5
  let rs1 := field w 15 5
  let sh := field w 20 6
  match (field w 12 3).toNat with
  | 0 => some (.ri .addi rd rs1 (immI w))
  | 2 => some (.ri .slti rd rs1 (immI w))
  | 3 => some (.ri .sltiu rd rs1 (immI w))
  | 4 => some (.ri .xori rd rs1 (immI w))
  | 6 => some (.ri .ori rd rs1 (immI w))
  | 7 => some (.ri .andi rd rs1 (immI w))
  | 1 => if (field w 26 6) = 0 then some (.sh .slli rd rs1 sh)
         else (unary1? (immI w).toNat).map fun op => .un op rd rs1
  | _ => if (field w 26 6) = 0 then some (.sh .srli rd rs1 sh)
         else if (field w 26 6) = 0x10#6 then some (.sh .srai rd rs1 sh)
         else if (field w 26 6) = 0x18#6 then some (.sh .rori rd rs1 sh)
         else (unary5? (immI w).toNat).map fun op => .un op rd rs1

/-- OP-IMM-32 (R37). -/
def decodeOpImm32 (w : W32) : Option Alu :=
  let rd := field w 7 5
  let rs1 := field w 15 5
  let sh := field w 20 6
  match (field w 12 3).toNat with
  | 0 => some (.ri .addiw rd rs1 (immI w))
  | 1 => if (field w 25 7) = 0 then some (.sh .slliw rd rs1 sh)
         else if (field w 26 6) = 2#6 then some (.sh .slliUw rd rs1 sh)
         else (unary32? (immI w).toNat).map fun op => .un op rd rs1
  | 5 => if (field w 25 7) = 0 then some (.sh .srliw rd rs1 sh)
         else if (field w 25 7) = 0x20#7 then some (.sh .sraiw rd rs1 sh)
         else if (field w 25 7) = 0x30#7 then some (.sh .roriw rd rs1 sh)
         else none
  | _ => none

/-- OP-32: the register forms, and zext.h, whose rs2 is 0 (R37). -/
def decodeOp32 (w : W32) : Option Alu :=
  let rd := field w 7 5
  let rs1 := field w 15 5
  let key := (field w 25 7).toNat * 8 + (field w 12 3).toNat
  if key = 36 then (if field w 20 5 = 0 then some (.un .zextH rd rs1) else none)
  else (opRR32? key).map fun op => .rr op rd rs1 (field w 20 5)

/-- The SYSTEM opcode (R39, R41). -/
def decodeSystem (w : W32) : Option Instr :=
  if w = 0x00000073#32 then some .ecall
  else if w = 0x00100073#32 then some .ebreak
  else if w = 0x10200073#32 then some (.xret 0)
  else if w = 0x30200073#32 then some (.xret 1)
  else if w = 0x10500073#32 then some .wfi
  else (csrOp? (field w 12 3).toNat).map fun op => .csrAccess op (field w 7 5) (field w 15 5) (field w 20 12)

/-- custom-0 (R45): funct3 selects the group and funct7 the instruction. The fields rd and rs2 that a row marks "—"
must be zero. -/
def decodeCustom0 (w : W32) : Option Instr :=
  let rd := field w 7 5
  let rs1 := field w 15 5
  let rs2 := field w 20 5
  let d0 := rd == 0
  let s0 := rs1 == 0
  let t0 := rs2 == 0
  let gate (b : Bool) (i : Instr) : Option Instr := if b then some i else none
  match (field w 12 3).toNat with
  | 0 => match (field w 25 7).toNat with
    | 0 => gate (d0 && t0) (.emit rs1)
    | 1 => gate (d0 && t0) (.emit2 rs1)
    | 2 => gate t0 (.emitnb rd rs1)
    | 3 => gate d0 (.emits rs1 rs2)
    | 4 => gate t0 (.emitq rd rs1)
    | _ => none
  | 1 => match (field w 25 7).toNat with
    | 0 => some (.accrd rd rs2 rs1)
    | _ => none
  | 2 => match (field w 25 7).toNat with
    | 0 => some (.talloc rd rs1 rs2)
    | 1 => gate (d0 && t0) (.tfree rs1)
    | 2 => gate t0 (.tinfo rd rs1)
    | 3 => gate d0 (.twait rs1 rs2)
    | 4 => gate t0 (.tstat rd rs1)
    | 5 => some (.btst rd rs1 rs2)
    | _ => none
  | 3 => match (field w 25 7).toNat with
    | 0 => some (.capNew rd rs1 rs2)
    | 1 => gate d0 (.capShare rs1 rs2)
    | 2 => gate d0 (.capXfer rs1 rs2)
    | 3 => gate (d0 && t0) (.capDrop rs1)
    | 4 => gate d0 (.capNarrow rs1 rs2)
    | 5 => gate t0 (.capInfo rd rs1)
    | 8 => gate d0 (.tdSet rs1 rs2)
    | 9 => gate t0 (.tdGet rd rs1)
    | 10 => gate d0 (.tdBind rs1 rs2)
    | _ => none
  | 4 => match (field w 25 7).toNat with
    | 0 => gate d0 (.barInit rs1 rs2)
    | 1 => gate (d0 && t0) (.barArrive rs1)
    | 2 => gate d0 (.barWait rs1 rs2)
    | 4 => gate d0 (.ringPut rs1 rs2)
    | 5 => some (.ringGet rd rs1 rs2)
    | 6 => gate (d0 && t0) (.ringDone rs1)
    | _ => none
  | 5 => match (field w 25 7).toNat with
    | 0 => gate t0 (.taskSpawn rd rs1)
    | 1 => gate (d0 && t0) (.taskDec rs1)
    | 2 => gate (d0 && s0 && t0) .taskEnd
    | 3 => gate (d0 && s0 && t0) .taskAbort
    | 4 => gate t0 (.taskArg rd rs1)
    | 5 => gate (s0 && t0) (.taskId rd)
    | _ => none
  | 6 => match (field w 25 7).toNat with
    | 0 => gate (d0 && s0 && t0) .bayResume
    | 1 => gate (d0 && t0) (.bayFlush rs1)
    | 2 => gate t0 (.qstat rd rs1)
    | _ => none
  | _ => match (field w 27 5).toNat with
    | 0 => some (.amoPkmin (field w 26 1) (field w 25 1) rd rs1 rs2)
    | 1 => some (.amoPkmax (field w 26 1) (field w 25 1) rd rs1 rs2)
    | _ => none

/-- custom-1 (R46): LD.C. -/
def decodeCustom1 (w : W32) : Option Instr :=
  let rd := field w 7 5
  let rs1 := field w 15 5
  let off := field w 20 8
  let cls := field w 28 4
  match (field w 12 3).toNat with
  | 0 => some (.lbC rd rs1 off cls)
  | 1 => some (.lhC rd rs1 off cls)
  | 2 => some (.lwC rd rs1 off cls)
  | 3 => some (.ldC rd rs1 off cls)
  | 4 => some (.lbuC rd rs1 off cls)
  | 5 => some (.lhuC rd rs1 off cls)
  | 6 => some (.lwuC rd rs1 off cls)
  | _ => none

/-- custom-2 (R46): ST.C. -/
def decodeCustom2 (w : W32) : Option Instr :=
  let rs2 := field w 20 5
  let rs1 := field w 15 5
  let off := field w 25 3 ++ field w 7 5
  let cls := field w 28 4
  match (field w 12 3).toNat with
  | 0 => some (.sbC rs2 rs1 off cls)
  | 1 => some (.shC rs2 rs1 off cls)
  | 2 => some (.swC rs2 rs1 off cls)
  | 3 => some (.sdC rs2 rs1 off cls)
  | _ => none

/-- custom-3 (R47). -/
def decodeCustom3 (w : W32) : Option Instr :=
  let rd := field w 7 5
  let rs1 := field w 15 5
  match (field w 12 3).toNat with
  | 0 => some (.bfext rd rs1 (field w 20 6) (field w 26 6))
  | 1 => some (.bfins rd rs1 (field w 20 6) (field w 26 6))
  | 2 => if rd = 0 ∧ rs1 = 0 then some (.bbc (field w 20 12)) else none
  | 3 => if rd = 0 then some (.trmark rs1 (field w 20 12)) else none
  | 4 => if field w 15 2 = 0 ∧ field w 10 2 = 0 then some (.fenceCm (field w 17 15) (field w 7 3)) else none
  | _ => none

/-- The fields of a generator instruction by its major opcode (R37, R38, R45). -/
def decodeGenFields (w : W32) : Option Instr :=
  let rd := field w 7 5
  let rs1 := field w 15 5
  let rs2 := field w 20 5
  match (field w 0 7).toNat with
  | 0x03 => (loadW? (field w 12 3).toNat).map fun x => .rv64Load x rd rs1 (immI w)
  | 0x0B => decodeCustom0 w
  | 0x0F => match (field w 12 3).toNat with
    | 0 => some (.fence (field w 28 4) (field w 24 4) (field w 20 4) rs1 rd)
    | 1 => some (.fenceI (immI w) rs1 rd)
    | _ => none
  | 0x13 => (decodeOpImm w).map .integerAlu
  | 0x17 => some (.integerAlu (.auipc rd (field w 12 20)))
  | 0x1B => (decodeOpImm32 w).map .integerAlu
  | 0x23 => (storeW? (field w 12 3).toNat).map fun x => .rv64Store x rs2 rs1 (immS w)
  | 0x2B => decodeCustom1 w
  | 0x2F => match (field w 12 3).toNat with
    | 2 => (amoOp? (field w 27 5).toNat).map fun op => .rv64Amo op 0 (field w 26 1) (field w 25 1) rd rs1 rs2
    | 3 => (amoOp? (field w 27 5).toNat).map fun op => .rv64Amo op 1 (field w 26 1) (field w 25 1) rd rs1 rs2
    | _ => none
  | 0x33 => (opRR? ((field w 25 7).toNat * 8 + (field w 12 3).toNat)).map fun op => .integerAlu (.rr op rd rs1 rs2)
  | 0x37 => some (.integerAlu (.lui rd (field w 12 20)))
  | 0x3B => (decodeOp32 w).map .integerAlu
  | 0x5B => decodeCustom2 w
  | 0x63 => (branchOp? (field w 12 3).toNat).map fun op => .jumpBranch (.br op rs1 rs2 (immB w))
  | 0x67 => if (field w 12 3) = 0 then some (.jumpBranch (.jalr rd rs1 (immI w))) else none
  | 0x6F => some (.jumpBranch (.jal rd (immJ w)))
  | 0x73 => decodeSystem w
  | 0x7B => decodeCustom3 w
  | _ => none

/-- A generator instruction word (R37 to R49). -/
def decodeGen (w : W32) : Except DecodeError Instr :=
  match decodeGenFields w with
  | none => .error .unassigned
  | some i => if i.wf then .ok i else .error .unassigned

/-! ### Engine words -/

/-- The fields of R50 for a vector word. -/
def vxF (w : W32) : VxF :=
  { s := field w 20 3, d := field w 16 4, a := field w 12 4, b := field w 8 4, t := field w 4 4, r := field w 1 3,
    m := field w 0 1 }
/-- The same without VB. -/
def vxU (w : W32) : VxU :=
  { s := field w 20 3, d := field w 16 4, a := field w 12 4, t := field w 4 4, r := field w 1 3, m := field w 0 1 }

/-- The pairing prefix (R251). -/
def mxPair (p : W32) : MxPair :=
  { fa := field p 22 4, fb := field p 18 4, so := field p 17 1, sat := field p 16 1, ga2 := field p 15 1,
    gb2 := field p 14 1, g := field p 0 14 }

/-- A sync word (R56). -/
def decodeSync (w : W32) : Except DecodeError Instr :=
  let m := field w 19 5
  match (field w 24 5).toNat with
  | 0 => checked (field w 0 19 == 0) (.syNop m)
  | 1 => checked true (.syNotify m (field w 0 19))
  | 2 => checked (field w 7 12 == 0) (.syArrive m (field w 0 7))
  | 3 => checked (field w 7 12 == 0) (.syWait m (field w 0 7))
  | 4 => checked (field w 0 19 == 0) (.syRdv m)
  | 5 => checked (field w 18 1 == 0) (.syFence m (field w 15 3) (field w 0 15))
  | 6 => checked (field w 4 15 == 0) (.sySlip m (field w 0 4))
  | 7 => checked (field w 0 19 == 0) (.syRound m)
  | _ => .error .reservedOp

/-- A matrix word and its prefixes (R57, R249 to R266). -/
def decodeMatrix (w : W32) (ps : List W32) : Except DecodeError Instr :=
  match (field w 24 5).toNat, ps with
  | 0, [] => checked (field w 0 7 == 0)
      (.mxCfg (field w 17 7) (field w 10 7) (field w 9 1) (field w 8 1) (field w 7 1))
  | 1, [p] => checked (field w 20 2 == 0)
      (.mxMma (mxPair p) (field w 23 1) (field w 22 1) (field w 16 4) (field w 8 8) (field w 0 8))
  | 2, [p] => checked (field w 8 1 == 0)
      (.mxMmw (mxPair p) (field w 23 1) (field w 22 1) (field w 13 9) (field w 9 4) (field w 0 8))
  | 3, [p, q] => checked (field w 20 2 == 0 && field q 0 4 == 0)
      (.mxMmh (mxPair p)
        { ow1 := field q 19 7, ww1 := field q 12 7, ry1 := field q 9 3, rx1 := field q 6 3, dil1 := field q 4 2 }
        (field w 23 1) (field w 22 1) (field w 16 4) (field w 8 8) (field w 0 8))
  | 4, [p] => checked (field w 12 2 == 0 && field p 0 24 == 0)
      (.mxLdw (field p 25 1) (field p 24 1) (field w 15 9) (field w 14 1) (field w 8 4) (field w 0 8))
  | 5, [] => checked (field w 8 15 == 0) (.mxInit (field w 23 1) (field w 0 8))
  | 6, [] => checked (field w 0 23 == 0) (.mxZero (field w 23 1))
  | 7, [p] => checked (field w 12 10 == 0 && field p 0 18 == 0)
      (.mxDrain (field p 22 4) (field p 19 3) (field p 18 1) (field w 23 1) (field w 22 1) (field w 8 4) (field w 0 8))
  | 8, [p, q] => checked (field w 16 6 == 0 && field p 0 4 == 0 && field q 0 9 == 0)
      (.mxRq { osgn := field p 25 1, rnd := field p 22 3, z := field p 13 9, oz := field p 4 9, tm := field q 18 8,
               ts := field q 10 8, rsen := field q 9 1, set := field w 23 1, zaft := field w 22 1, tr := field w 8 8,
               td := field w 0 8 })
  | 9, [] => checked (field w 8 15 == 0) (.mxSnap (field w 23 1) (field w 0 8))
  | _, _ => if (field w 24 5).toNat < 10 then .error .prefixCount else .error .reservedOp

/-- A vector op that takes no prefix and names VB (R58, R290, R298). -/
def vecBinary? (f : VxF) : Nat → Option Instr
  | 0x00 => some (.vxAdd f) | 0x01 => some (.vxSub f) | 0x02 => some (.vxMul f) | 0x03 => some (.vxFma f)
  | 0x04 => some (.vxMin f) | 0x05 => some (.vxMax f) | 0x08 => some (.vxAnd f) | 0x09 => some (.vxOr f)
  | 0x0A => some (.vxXor f) | 0x0C => some (.vxShl f) | 0x0D => some (.vxShr f) | 0x0E => some (.vxSra f)
  | 0x10 => some (.vxCeq f) | 0x11 => some (.vxCne f) | 0x12 => some (.vxClt f) | 0x13 => some (.vxCle f)
  | 0x14 => some (.vxSel f) | 0x30 => some (.vxGath f) | 0x31 => some (.vxScat f) | 0x32 => some (.vxCmpct f)
  | _ => none

/-- A vector op that takes no prefix and whose VB is reserved (R58, R290, R294, R296, R297). -/
def vecUnary? (f : VxU) : Nat → Option Instr
  | 0x06 => some (.vxAbs f) | 0x07 => some (.vxNeg f) | 0x0B => some (.vxNot f) | 0x19 => some (.vxMov f)
  | 0x20 => some (.vxExp2 f) | 0x21 => some (.vxLog2 f) | 0x22 => some (.vxRcp f) | 0x23 => some (.vxRsqrt f)
  | 0x24 => some (.vxSqrt f) | 0x25 => some (.vxSin f) | 0x26 => some (.vxCos f) | 0x27 => some (.vxTanh f)
  | 0x28 => some (.vxRsum f) | 0x29 => some (.vxRmin f) | 0x2A => some (.vxRmax f) | 0x2B => some (.vxSsum f)
  | 0x2C => some (.vxSmin f) | 0x2D => some (.vxSmax f)
  | _ => none

/-- The prefix count of an assigned vector op (R58). -/
def vecPrefixes? (op : Nat) : Option Nat :=
  if op = 0x18 ∨ op = 0x1A ∨ op = 0x33 then some 1
  else if op = 0x38 ∨ op = 0x39 then some 2
  else if op < 0x0F ∨ (0x10 ≤ op ∧ op ≤ 0x14) ∨ op = 0x19 ∨ (0x20 ≤ op ∧ op ≤ 0x2D) ∨ (0x30 ≤ op ∧ op ≤ 0x32) ∨
      op = 0x3A then some 0
  else none

/-- A vector word of a control, constant or conversion op, or vx.hist (R284 to R286, R293, R295, R299). -/
def decodeVectorWide (w : W32) (ps : List W32) : Except DecodeError Instr :=
  match (field w 23 6).toNat, ps with
  | 0x18, [p] => checked (field w 8 4 == 0 && field p 0 22 == 0) (.vxCvt (vxU w) (field p 22 4))
  | 0x1A, [p] => checked (field w 14 2 == 0)
      (.vxSet (field w 20 3) (field w 16 4) (field w 8 6 ++ field p 0 26) (field w 4 4) (field w 1 3) (field w 0 1))
  | 0x33, [p] => checked (field w 8 4 == 0 && field p 8 7 == 0)
      (.vxHist (vxU w) (field p 16 10) (field p 15 1) (field p 0 8))
  | 0x38, [p, q] => checked (field p 24 2 == 0 && field q 16 2 == 0)
      (.vxSlot (field w 20 3) (field w 16 4) (field w 8 8) (field p 0 24) (field w 0 8 ++ field q 18 8) (field q 0 16))
  | 0x39, [p, q] => checked (field p 24 2 == 0 && field q 16 10 == 0)
      (.vxSeg (field w 20 3) (field w 16 4) (field w 8 8) (field w 0 8) (field p 0 24) (field q 0 16))
  | 0x3A, [] => checked (field w 1 19 == 0) (.vxChk (field w 20 3) (field w 0 1))
  | op, _ => if (vecPrefixes? op).isSome then .error .prefixCount else .error .reservedOp

/-- A vector word and its prefixes (R58). -/
def decodeVector (w : W32) (ps : List W32) : Except DecodeError Instr :=
  match ps, vecBinary? (vxF w) (field w 23 6).toNat, vecUnary? (vxU w) (field w 23 6).toNat with
  | [], some i, _ => checked true i
  | [], none, some i => checked (field w 8 4 == 0) i
  | _, _, _ => decodeVectorWide w ps

/-- A copy word and its prefixes; q is 0 in cin and 1 in cout (R59, R311 to R324). -/
def decodeCopy (q : BitVec 1) (w : W32) (ps : List W32) : Except DecodeError Instr :=
  let c := field w 20 4
  let t := field w 8 12
  let h := field w 0 8
  match (field w 24 5).toNat, ps with
  | 0, [p] => checked (field w 12 6 == 0 && field p 20 6 == 0)
      (.cpLoop q (field w 21 3) (field w 18 3) (field w 0 12) (field p 16 4) (field p 0 16))
  | 1, [p] => checked (field p 4 22 == 0) (.cpOrg q (field w 0 24) (field p 3 1) (field p 0 3))
  | 2, [p] => checked (field p 8 18 == 0) (.cpPad q (field p 0 8 ++ field w 0 24))
  | 3, [] => checked true (if q = 0 then .cpIn c t h else .cpInCout c t h)
  | 4, [] => checked true (if q = 0 then .cpOutCin c t h else .cpOut c t h)
  | 5, [] => checked (c == 0) (if q = 0 then .cpFillCin t h else .cpFill t h)
  | 6, [p] => checked (c == 0 && field p 0 15 == 0) (.cpT2t q t h (field p 18 8) (field p 15 3))
  | 7, [p] => checked (field p 0 18 == 0) (.cpGath q c t h (field p 18 8))
  | 8, [p] => checked (field p 0 18 == 0) (.cpScat q c t h (field p 18 8))
  | 9, [p] => checked (field p 0 12 == 0)
      (.cpRed q c t h (field p 24 2) (field p 21 3) (field p 20 1) (field p 12 8))
  | 10, [p] => checked (field p 12 13 == 0) (.cpPeer q c t h (field p 25 1) (field p 0 12))
  | 11, [] => checked (field w 11 9 == 0 && h == 0)
      (if q = 0 then .cpDrainCin c (field w 8 3) else .cpDrain c (field w 8 3))
  | op, _ => if op < 12 then .error .prefixCount else .error .reservedOp

/-- The fields of kx.spmm, kx.bspmm and kx.sddmm (R338). -/
def kxMul (w p : W32) : KxMul :=
  { flag := field w 22 1, tx := field w 8 8, ti := field w 0 8, tb := field p 18 8, out := field p 10 8,
    rnd := field p 7 3, sat := field p 6 1 }

/-- The fields of a sort word (R343). -/
def kxKey (w : W32) : KxKey :=
  { kt := field w 21 2, desc := field w 20 1, ven := field w 19 1, tv := field w 8 8, tk := field w 0 8 }

/-- A class-engine word and its prefixes (R60, R336 to R344). -/
def decodeClass (w : W32) (ps : List W32) : Except DecodeError Instr :=
  match (field w 23 6).toNat, ps with
  | 0, [] => checked (field w 16 7 == 0) (.kxIld (field w 8 8) (field w 0 8))
  | 1, [p] => checked (field w 16 6 == 0 && field p 0 6 == 0) (.kxSpmm (kxMul w p))
  | 2, [p] => checked (field w 16 6 == 0 && field p 0 6 == 0) (.kxBspmm (kxMul w p))
  | 3, [p] => checked (field w 16 6 == 0 && field p 0 6 == 0) (.kxSddmm (kxMul w p))
  | 4, [p] => checked (field w 16 5 == 0 && field p 18 8 == 0 && field p 0 6 == 0)
      (.kxSpadd (field w 22 1) (field w 21 1) (field w 8 8) (field w 0 8) (field p 10 8) (field p 7 3) (field p 6 1))
  | 32, [p] => checked (field w 16 3 == 0 && field p 0 1 == 0)
      (.kxSort (kxKey w) (field p 10 16) (field p 2 8) (field p 1 1))
  | 33, [p] => checked (field w 16 3 == 0 && field p 0 2 == 0) (.kxMerge (kxKey w) (field p 18 8) (field p 2 16))
  | 34, [p] => checked (field w 16 3 == 0 && field p 0 2 == 0) (.kxSsort (kxKey w) (field p 18 8) (field p 2 16))
  | 35, [p] => checked (field w 20 1 == 0 && field w 16 3 == 0 && field p 0 1 == 0)
      (.kxCmpct (field w 21 2) (field w 19 1) (field w 8 8) (field w 0 8) (field p 10 16) (field p 2 8) (field p 1 1))
  | 36, [] => checked (field w 20 1 == 0 && field w 16 3 == 0)
      (.kxUniq (field w 21 2) (field w 19 1) (field w 8 8) (field w 0 8))
  | 37, [p] => checked (field w 16 3 == 0) (.kxTopk (kxKey w) (field p 10 16) (field p 0 10))
  | op, _ => if op < 5 ∨ (32 ≤ op ∧ op < 38) then .error .prefixCount else .error .reservedOp

/-- The prefix count of an assigned op of E = 1 to 5 (R57 to R60), none for a reserved op. -/
def prefixesOf (w : W32) : Option Nat :=
  match (field w 29 3).toNat with
  | 1 => match (field w 24 5).toNat with
    | 0 | 5 | 6 | 9 => some 0
    | 1 | 2 | 4 | 7 => some 1
    | 3 | 8 => some 2
    | _ => none
  | 2 => vecPrefixes? (field w 23 6).toNat
  | 3 | 4 => match (field w 24 5).toNat with
    | 0 | 1 | 2 | 6 | 7 | 8 | 9 | 10 => some 1
    | 3 | 4 | 5 | 11 => some 0
    | _ => none
  | 5 => match (field w 23 6).toNat with
    | 0 | 36 => some 0
    | 1 | 2 | 3 | 4 | 32 | 33 | 34 | 35 | 37 => some 1
    | _ => none
  | _ => none

/-- Whether p is a prefix word for engine e (R50). -/
def isPrefixFor (e : BitVec 3) (p : W32) : Bool := field p 29 3 == 6#3 && field p 26 3 == e

/-- An engine word with its attached prefixes in order (R50, R54, R55). -/
def decodeWord (w : W32) (ps : List W32) : Except DecodeError Instr :=
  if !ps.all (isPrefixFor (field w 29 3)) then .error .prefixCount
  else match (field w 29 3).toNat with
  | 0 => if ps.isEmpty then decodeSync w else .error .prefixCount
  | 1 => decodeMatrix w ps
  | 2 => decodeVector w ps
  | 3 => decodeCopy 0 w ps
  | 4 => decodeCopy 1 w ps
  | 5 => decodeClass w ps
  | _ => .error .reservedOp

/-! ### Command packets -/

/-- A packet address from its two dwords (chapter 11, Command packets). -/
def pAddr (a0 a1 : W32) : PAddr := { buf := field a1 8 24, off := field a1 0 8 ++ field a0 0 32 }

/-- A 64-bit value from two dwords, low first. -/
def pVal (lo hi : W32) : Word := hi ++ lo

/-- A packet of header h and its payload (R61, R62, R371); badPacket where R63 says so of the packet by itself. -/
def decodePacket (h : W32) (ds : List W32) : Except DecodeError Instr :=
  let fd := field h 0 16
  if (field h 16 10).toNat ≠ ds.length then .error .badPacket else
  match (field h 26 6).toNat, ds with
  | 0, _ => checked (fd == 0) (.nop (field h 16 10))
  | 1, [a0, a1, d2, d3] => checked (field h 1 15 == 0 && d3 == 0) (.launch (field h 0 1) (pAddr a0 a1) d2)
  | 2, [a0, a1, d2] => checked (fd == 0 && field d2 20 12 == 0) (.ind (pAddr a0 a1) (field d2 0 20))
  | 3, [a0, a1, d2, d3, d4] => checked (field h 3 13 == 0 && field d4 10 22 == 0)
      (.pred (field h 0 3) (pAddr a0 a1) (pVal d2 d3) (field d4 0 10))
  | 4, [] => checked true (.loop (field h 8 8) (field h 0 8))
  | 5, [] => checked (fd == 0) .ffence
  | 6, a0 :: a1 :: d => checked (fd == 0) (.write (pAddr a0 a1) d)
  | 7, [a0, a1, d2, d3] => checked (field h 3 13 == 0) (.wait (field h 0 3) (pAddr a0 a1) (pVal d2 d3))
  | 8, [a0, a1, d2, d3] => checked (field h 3 13 == 0)
      (.signal (field h 0 2) (field h 2 1) (pAddr a0 a1) (pVal d2 d3))
  | 9, [a0, a1, b0, b1, d4, d5] => checked (fd == 0 && d5 == 0) (.dma (pAddr a0 a1) (pAddr b0 b1) d4)
  | 10, [d0] => checked (fd == 0 && field d0 24 8 == 0) (.iflush (field d0 0 24))
  | _, _ => .error .badPacket

/-! ### One decoder over the three kinds of word -/

/-- What carries an instruction: a generator word, an engine word with its prefixes, or a packet (R61). -/
inductive Code where
  | gen (w : W32)
  | word (w : W32) (ps : List W32)
  | packet (h : W32) (ds : List W32)
deriving DecidableEq, Repr

/-- The instruction that a carrier holds, or why it holds none. -/
def decode : Code → Except DecodeError Instr
  | .gen w => decodeGen w
  | .word w ps => decodeWord w ps
  | .packet h ds => decodePacket h ds

/-! ### The encoder -/

/-- The 32-bit word with the given bits, from high to low. -/
def word {v : Nat} (x : BitVec v) : W32 := x.setWidth 32

/-- The size code of a load (R37). -/
def LoadW.code : LoadW → BitVec 3
  | .b => 0 | .h => 1 | .w => 2 | .d => 3 | .bu => 4 | .hu => 5 | .wu => 6
/-- The size code of a store. -/
def StoreW.code : StoreW → BitVec 3
  | .b => 0 | .h => 1 | .w => 2 | .d => 3
/-- funct3 of a branch. -/
def BranchOp.code : BranchOp → BitVec 3
  | .beq => 0 | .bne => 1 | .blt => 4 | .bge => 5 | .bltu => 6 | .bgeu => 7
/-- funct5 of an AMO. -/
def AmoOp.code : AmoOp → BitVec 5
  | .add => 0 | .swap => 1 | .xor => 4 | .cas => 5 | .or => 8 | .and => 12 | .min => 16 | .max => 20 | .minu => 24
  | .maxu => 28
/-- funct3 of a CSR instruction. -/
def CsrOp.code : CsrOp → BitVec 3
  | .rw => 1 | .rs => 2 | .rc => 3 | .rwi => 5 | .rsi => 6 | .rci => 7

/-- R format: funct7, rs2, rs1, funct3, rd, opcode. -/
def fmtR (f7 : BitVec 7) (rs2 rs1 : Reg) (f3 : BitVec 3) (rd : Reg) (op : BitVec 7) : W32 :=
  word (f7 ++ rs2 ++ rs1 ++ f3 ++ rd ++ op)
/-- I format. -/
def fmtI {v : Nat} (imm : BitVec v) (rs1 : Reg) (f3 : BitVec 3) (rd : Reg) (op : BitVec 7) : W32 :=
  word (imm ++ rs1 ++ f3 ++ rd ++ op)
/-- custom-0 (ZR format of R45). -/
def fmtZR (f3 : BitVec 3) (f7 : BitVec 7) (rd rs1 rs2 : Reg) : W32 := fmtR f7 rs2 rs1 f3 rd 0x0B
/-- ZL format (R45). -/
def fmtZL (size : BitVec 3) (rd rs1 : Reg) (off : BitVec 8) (cls : BitVec 4) : W32 :=
  word (cls ++ off ++ rs1 ++ size ++ rd ++ 0x2B#7)
/-- ZS format (R45). -/
def fmtZS (size : BitVec 3) (rs2 rs1 : Reg) (off : BitVec 8) (cls : BitVec 4) : W32 :=
  word (cls ++ off.extractLsb' 5 3 ++ rs2 ++ rs1 ++ size ++ off.extractLsb' 0 5 ++ 0x5B#7)

/-- funct7, funct3 and opcode of a register-register instruction (R37). -/
def AluRR.code : AluRR → BitVec 7 × BitVec 3 × BitVec 7
  | .add => (0, 0, 0x33) | .sll => (0, 1, 0x33) | .slt => (0, 2, 0x33) | .sltu => (0, 3, 0x33)
  | .xor => (0, 4, 0x33) | .srl => (0, 5, 0x33) | .or => (0, 6, 0x33) | .and => (0, 7, 0x33)
  | .mul => (1, 0, 0x33) | .mulh => (1, 1, 0x33) | .mulhsu => (1, 2, 0x33) | .mulhu => (1, 3, 0x33)
  | .div => (1, 4, 0x33) | .divu => (1, 5, 0x33) | .rem => (1, 6, 0x33) | .remu => (1, 7, 0x33)
  | .min => (5, 4, 0x33) | .minu => (5, 5, 0x33) | .max => (5, 6, 0x33) | .maxu => (5, 7, 0x33)
  | .sh1add => (16, 2, 0x33) | .sh2add => (16, 4, 0x33) | .sh3add => (16, 6, 0x33)
  | .sub => (32, 0, 0x33) | .xnor => (32, 4, 0x33) | .sra => (32, 5, 0x33) | .orn => (32, 6, 0x33)
  | .andn => (32, 7, 0x33) | .rol => (48, 1, 0x33) | .ror => (48, 5, 0x33)
  | .addw => (0, 0, 0x3B) | .sllw => (0, 1, 0x3B) | .srlw => (0, 5, 0x3B)
  | .mulw => (1, 0, 0x3B) | .divw => (1, 4, 0x3B) | .divuw => (1, 5, 0x3B) | .remw => (1, 6, 0x3B)
  | .remuw => (1, 7, 0x3B) | .addUw => (4, 0, 0x3B)
  | .sh1addUw => (16, 2, 0x3B) | .sh2addUw => (16, 4, 0x3B) | .sh3addUw => (16, 6, 0x3B)
  | .subw => (32, 0, 0x3B) | .sraw => (32, 5, 0x3B) | .rolw => (48, 1, 0x3B) | .rorw => (48, 5, 0x3B)

/-- funct3 and opcode of a register-immediate instruction. -/
def AluRI.code : AluRI → BitVec 3 × BitVec 7
  | .addi => (0, 0x13) | .slti => (2, 0x13) | .sltiu => (3, 0x13) | .xori => (4, 0x13) | .ori => (6, 0x13)
  | .andi => (7, 0x13) | .addiw => (0, 0x1B)

/-- The six bits above the amount, funct3 and opcode of an immediate shift. -/
def AluSh.code : AluSh → BitVec 6 × BitVec 3 × BitVec 7
  | .slli => (0, 1, 0x13) | .srli => (0, 5, 0x13) | .srai => (16, 5, 0x13) | .rori => (24, 5, 0x13)
  | .slliw => (0, 1, 0x1B) | .srliw => (0, 5, 0x1B) | .sraiw => (16, 5, 0x1B) | .roriw => (24, 5, 0x1B)
  | .slliUw => (2, 1, 0x1B)

/-- The 12-bit immediate, funct3 and opcode of a unary instruction; zext.h stands in OP-32 with rs2 = 0. -/
def AluU.code : AluU → BitVec 12 × BitVec 3 × BitVec 7
  | .clz => (0x600, 1, 0x13) | .ctz => (0x601, 1, 0x13) | .cpop => (0x602, 1, 0x13) | .sextB => (0x604, 1, 0x13)
  | .sextH => (0x605, 1, 0x13) | .orcB => (0x287, 5, 0x13) | .rev8 => (0x6B8, 5, 0x13)
  | .clzw => (0x600, 1, 0x1B) | .ctzw => (0x601, 1, 0x1B) | .cpopw => (0x602, 1, 0x1B) | .zextH => (0x080, 4, 0x3B)

/-- The word of a computational instruction. -/
def Alu.encode : Alu → W32
  | .rr op rd rs1 rs2 => fmtR op.code.1 rs2 rs1 op.code.2.1 rd op.code.2.2
  | .ri op rd rs1 imm => fmtI imm rs1 op.code.1 rd op.code.2
  | .sh op rd rs1 amt => fmtI (op.code.1 ++ amt) rs1 op.code.2.1 rd op.code.2.2
  | .un op rd rs1 => fmtI op.code.1 rs1 op.code.2.1 rd op.code.2.2
  | .lui rd imm => word (imm ++ rd ++ 0x37#7)
  | .auipc rd imm => word (imm ++ rd ++ 0x17#7)

/-- The word of a jump or branch. -/
def Jump.encode : Jump → W32
  | .jal rd off =>
    word (off.extractLsb' 19 1 ++ off.extractLsb' 0 10 ++ off.extractLsb' 10 1 ++ off.extractLsb' 11 8 ++ rd ++ 0x6F#7)
  | .jalr rd rs1 off => fmtI off rs1 0 rd 0x67
  | .br op rs1 rs2 off =>
    word (off.extractLsb' 11 1 ++ off.extractLsb' 4 6 ++ rs2 ++ rs1 ++ op.code ++ off.extractLsb' 0 4 ++
      off.extractLsb' 10 1 ++ 0x63#7)

/-- The word of a generator instruction. -/
def encodeGen : Instr → Option W32
  | .emit rs1 => some (fmtZR 0 0 0 rs1 0)
  | .emit2 rs1 => some (fmtZR 0 1 0 rs1 0)
  | .emitnb rd rs1 => some (fmtZR 0 2 rd rs1 0)
  | .emits rs1 rs2 => some (fmtZR 0 3 0 rs1 rs2)
  | .emitq rd rs1 => some (fmtZR 0 4 rd rs1 0)
  | .accrd rd rd2 rs1 => some (fmtZR 1 0 rd rs1 rd2)
  | .bfext rd rs1 pos len1 => some (word (len1 ++ pos ++ rs1 ++ 0#3 ++ rd ++ 0x7B#7))
  | .bfins rd rs1 pos len1 => some (word (len1 ++ pos ++ rs1 ++ 1#3 ++ rd ++ 0x7B#7))
  | .bbc n => some (fmtI n 0 2 0 0x7B)
  | .trmark rs1 tag => some (fmtI tag rs1 3 0 0x7B)
  | .lbC rd rs1 off cls => some (fmtZL 0 rd rs1 off cls)
  | .lhC rd rs1 off cls => some (fmtZL 1 rd rs1 off cls)
  | .lwC rd rs1 off cls => some (fmtZL 2 rd rs1 off cls)
  | .ldC rd rs1 off cls => some (fmtZL 3 rd rs1 off cls)
  | .lbuC rd rs1 off cls => some (fmtZL 4 rd rs1 off cls)
  | .lhuC rd rs1 off cls => some (fmtZL 5 rd rs1 off cls)
  | .lwuC rd rs1 off cls => some (fmtZL 6 rd rs1 off cls)
  | .sbC rs2 rs1 off cls => some (fmtZS 0 rs2 rs1 off cls)
  | .shC rs2 rs1 off cls => some (fmtZS 1 rs2 rs1 off cls)
  | .swC rs2 rs1 off cls => some (fmtZS 2 rs2 rs1 off cls)
  | .sdC rs2 rs1 off cls => some (fmtZS 3 rs2 rs1 off cls)
  | .rv64Load x rd rs1 imm => some (fmtI imm rs1 x.code rd 0x03)
  | .rv64Store x rs2 rs1 imm => some (fmtR (imm.extractLsb' 5 7) rs2 rs1 x.code (imm.extractLsb' 0 5) 0x23)
  | .rv64Amo op dbl aq rl rd rs1 rs2 =>
    some (word (op.code ++ aq ++ rl ++ rs2 ++ rs1 ++ 1#2 ++ dbl ++ rd ++ 0x2F#7))
  | .jumpBranch j => some j.encode
  | .fence fm pred succ rs1 rd => some (word (fm ++ pred ++ succ ++ rs1 ++ 0#3 ++ rd ++ 0x0F#7))
  | .fenceI imm rs1 rd => some (fmtI imm rs1 1 rd 0x0F)
  | .ecall => some 0x00000073#32
  | .ebreak => some 0x00100073#32
  | .xret machine => some (if machine = 0 then 0x10200073#32 else 0x30200073#32)
  | .wfi => some 0x10500073#32
  | .csrAccess op rd src csr => some (fmtI csr src op.code rd 0x73)
  | .fenceCm mask scope => some (word (mask ++ 0#2 ++ 4#3 ++ 0#2 ++ scope ++ 0x7B#7))
  | .talloc rd rs1 rs2 => some (fmtZR 2 0 rd rs1 rs2)
  | .tfree rs1 => some (fmtZR 2 1 0 rs1 0)
  | .tinfo rd rs1 => some (fmtZR 2 2 rd rs1 0)
  | .twait rs1 rs2 => some (fmtZR 2 3 0 rs1 rs2)
  | .tstat rd rs1 => some (fmtZR 2 4 rd rs1 0)
  | .btst rd rs1 rs2 => some (fmtZR 2 5 rd rs1 rs2)
  | .capNew rd rs1 rs2 => some (fmtZR 3 0 rd rs1 rs2)
  | .capShare rs1 rs2 => some (fmtZR 3 1 0 rs1 rs2)
  | .capXfer rs1 rs2 => some (fmtZR 3 2 0 rs1 rs2)
  | .capDrop rs1 => some (fmtZR 3 3 0 rs1 0)
  | .capNarrow rs1 rs2 => some (fmtZR 3 4 0 rs1 rs2)
  | .capInfo rd rs1 => some (fmtZR 3 5 rd rs1 0)
  | .tdSet rs1 rs2 => some (fmtZR 3 8 0 rs1 rs2)
  | .tdGet rd rs1 => some (fmtZR 3 9 rd rs1 0)
  | .tdBind rs1 rs2 => some (fmtZR 3 10 0 rs1 rs2)
  | .barInit rs1 rs2 => some (fmtZR 4 0 0 rs1 rs2)
  | .barArrive rs1 => some (fmtZR 4 1 0 rs1 0)
  | .barWait rs1 rs2 => some (fmtZR 4 2 0 rs1 rs2)
  | .ringPut rs1 rs2 => some (fmtZR 4 4 0 rs1 rs2)
  | .ringGet rd rs1 rs2 => some (fmtZR 4 5 rd rs1 rs2)
  | .ringDone rs1 => some (fmtZR 4 6 0 rs1 0)
  | .taskSpawn rd rs1 => some (fmtZR 5 0 rd rs1 0)
  | .taskDec rs1 => some (fmtZR 5 1 0 rs1 0)
  | .taskEnd => some (fmtZR 5 2 0 0 0)
  | .taskAbort => some (fmtZR 5 3 0 0 0)
  | .taskArg rd rs1 => some (fmtZR 5 4 rd rs1 0)
  | .taskId rd => some (fmtZR 5 5 rd 0 0)
  | .bayResume => some (fmtZR 6 0 0 0 0)
  | .bayFlush rs1 => some (fmtZR 6 1 0 rs1 0)
  | .qstat rd rs1 => some (fmtZR 6 2 rd rs1 0)
  | .amoPkmin aq rl rd rs1 rs2 => some (word (0#5 ++ aq ++ rl ++ rs2 ++ rs1 ++ 7#3 ++ rd ++ 0x0B#7))
  | .amoPkmax aq rl rd rs1 rs2 => some (word (1#5 ++ aq ++ rl ++ rs2 ++ rs1 ++ 7#3 ++ rd ++ 0x0B#7))
  | .integerAlu a => some a.encode
  | _ => none

/-- A prefix word for engine e (R50). -/
def pfxWord {v : Nat} (e : BitVec 3) (payload : BitVec v) : W32 := word (6#3 ++ e ++ payload)

/-- A vector word of three slots (R50). -/
def vecWord (op : BitVec 6) (f : VxF) : W32 :=
  word (2#3 ++ op ++ f.s ++ f.d ++ f.a ++ f.b ++ f.t ++ f.r ++ f.m)
/-- A vector word whose VB is reserved. -/
def vecWordU (op : BitVec 6) (f : VxU) : W32 :=
  word (2#3 ++ op ++ f.s ++ f.d ++ f.a ++ 0#4 ++ f.t ++ f.r ++ f.m)
/-- The pairing prefix (R251). -/
def MxPair.encode (p : MxPair) : W32 :=
  pfxWord 1 (p.fa ++ p.fb ++ p.so ++ p.sat ++ p.ga2 ++ p.gb2 ++ p.g)
/-- E of a copy word: 3 in cin, 4 in cout (R50). -/
def copyE (q : BitVec 1) : BitVec 3 := if q = 0 then 3 else 4
/-- A copy word (R50). -/
def copyWord (q : BitVec 1) (op : BitVec 5) (c : BitVec 4) (t : BitVec 12) (h : BitVec 8) : W32 :=
  word (copyE q ++ op ++ c ++ t ++ h)
/-- A sparse product word and its prefix (R338). -/
def KxMul.encode (op : BitVec 6) (f : KxMul) : W32 × List W32 :=
  (word (5#3 ++ op ++ f.flag ++ 0#6 ++ f.tx ++ f.ti), [pfxWord 5 (f.tb ++ f.out ++ f.rnd ++ f.sat ++ 0#6)])
/-- A sort word (R343). -/
def KxKey.encode (op : BitVec 6) (f : KxKey) : W32 :=
  word (5#3 ++ op ++ f.kt ++ f.desc ++ f.ven ++ 0#3 ++ f.tv ++ f.tk)

/-- An engine word and its prefixes. -/
def encodeWord : Instr → Option (W32 × List W32)
  | .syNop m => some (word (0#3 ++ 0#5 ++ m ++ 0#19), [])
  | .syNotify m t => some (word (0#3 ++ 1#5 ++ m ++ t), [])
  | .syArrive m b => some (word (0#3 ++ 2#5 ++ m ++ 0#12 ++ b), [])
  | .syWait m b => some (word (0#3 ++ 3#5 ++ m ++ 0#12 ++ b), [])
  | .syRdv m => some (word (0#3 ++ 4#5 ++ m ++ 0#19), [])
  | .syFence m s c => some (word (0#3 ++ 5#5 ++ m ++ 0#1 ++ s ++ c), [])
  | .sySlip m d => some (word (0#3 ++ 6#5 ++ m ++ 0#15 ++ d), [])
  | .syRound m => some (word (0#3 ++ 7#5 ++ m ++ 0#19), [])
  | .mxCfg m n a x y => some (word (1#3 ++ 0#5 ++ m ++ n ++ a ++ x ++ y ++ 0#7), [])
  | .mxMma p set ovw cl ta tb => some (word (1#3 ++ 1#5 ++ set ++ ovw ++ 0#2 ++ cl ++ ta ++ tb), [p.encode])
  | .mxMmw p set ovw kb cl ta => some (word (1#3 ++ 2#5 ++ set ++ ovw ++ kb ++ cl ++ 0#1 ++ ta), [p.encode])
  | .mxMmh p x set ovw cl tx tb => some (word (1#3 ++ 3#5 ++ set ++ ovw ++ 0#2 ++ cl ++ tx ++ tb),
      [p.encode, pfxWord 1 (x.ow1 ++ x.ww1 ++ x.ry1 ++ x.rx1 ++ x.dil1 ++ 0#4)])
  | .mxLdw g1 so koff clr cl tw => some (word (1#3 ++ 4#5 ++ koff ++ clr ++ 0#2 ++ cl ++ tw),
      [pfxWord 1 (g1 ++ so ++ 0#24)])
  | .mxInit set ti => some (word (1#3 ++ 5#5 ++ set ++ 0#15 ++ ti), [])
  | .mxZero set => some (word (1#3 ++ 6#5 ++ set ++ 0#23), [])
  | .mxDrain fd rnd g3 set zaft cl td => some (word (1#3 ++ 7#5 ++ set ++ zaft ++ 0#10 ++ cl ++ td),
      [pfxWord 1 (fd ++ rnd ++ g3 ++ 0#18)])
  | .mxRq f => some (word (1#3 ++ 8#5 ++ f.set ++ f.zaft ++ 0#6 ++ f.tr ++ f.td),
      [pfxWord 1 (f.osgn ++ f.rnd ++ f.z ++ f.oz ++ 0#4), pfxWord 1 (f.tm ++ f.ts ++ f.rsen ++ 0#9)])
  | .mxSnap set td => some (word (1#3 ++ 9#5 ++ set ++ 0#15 ++ td), [])
  | .vxAdd f => some (vecWord 0x00 f, [])
  | .vxSub f => some (vecWord 0x01 f, [])
  | .vxMul f => some (vecWord 0x02 f, [])
  | .vxFma f => some (vecWord 0x03 f, [])
  | .vxMin f => some (vecWord 0x04 f, [])
  | .vxMax f => some (vecWord 0x05 f, [])
  | .vxAbs f => some (vecWordU 0x06 f, [])
  | .vxNeg f => some (vecWordU 0x07 f, [])
  | .vxAnd f => some (vecWord 0x08 f, [])
  | .vxOr f => some (vecWord 0x09 f, [])
  | .vxXor f => some (vecWord 0x0A f, [])
  | .vxNot f => some (vecWordU 0x0B f, [])
  | .vxShl f => some (vecWord 0x0C f, [])
  | .vxShr f => some (vecWord 0x0D f, [])
  | .vxSra f => some (vecWord 0x0E f, [])
  | .vxCeq f => some (vecWord 0x10 f, [])
  | .vxCne f => some (vecWord 0x11 f, [])
  | .vxClt f => some (vecWord 0x12 f, [])
  | .vxCle f => some (vecWord 0x13 f, [])
  | .vxSel f => some (vecWord 0x14 f, [])
  | .vxMov f => some (vecWordU 0x19 f, [])
  | .vxExp2 f => some (vecWordU 0x20 f, [])
  | .vxLog2 f => some (vecWordU 0x21 f, [])
  | .vxRcp f => some (vecWordU 0x22 f, [])
  | .vxRsqrt f => some (vecWordU 0x23 f, [])
  | .vxSqrt f => some (vecWordU 0x24 f, [])
  | .vxSin f => some (vecWordU 0x25 f, [])
  | .vxCos f => some (vecWordU 0x26 f, [])
  | .vxTanh f => some (vecWordU 0x27 f, [])
  | .vxRsum f => some (vecWordU 0x28 f, [])
  | .vxRmin f => some (vecWordU 0x29 f, [])
  | .vxRmax f => some (vecWordU 0x2A f, [])
  | .vxSsum f => some (vecWordU 0x2B f, [])
  | .vxSmin f => some (vecWordU 0x2C f, [])
  | .vxSmax f => some (vecWordU 0x2D f, [])
  | .vxGath f => some (vecWord 0x30 f, [])
  | .vxScat f => some (vecWord 0x31 f, [])
  | .vxCmpct f => some (vecWord 0x32 f, [])
  | .vxCvt f src => some (vecWordU 0x18 f, [pfxWord 2 (src ++ 0#22)])
  | .vxSet s d k t r m => some (word (2#3 ++ 0x1A#6 ++ s ++ d ++ 0#2 ++ k.extractLsb' 26 6 ++ t ++ r ++ m),
      [pfxWord 2 (k.extractLsb' 0 26)])
  | .vxHist f nbin1 mode base => some (vecWordU 0x33 f, [pfxWord 2 (nbin1 ++ mode ++ 0#7 ++ base)])
  | .vxSlot s d tile off stride count => some (word (2#3 ++ 0x38#6 ++ s ++ d ++ tile ++ stride.extractLsb' 8 8),
      [pfxWord 2 (0#2 ++ off), pfxWord 2 (stride.extractLsb' 0 8 ++ 0#2 ++ count)])
  | .vxSeg s d tile tl off nseg => some (word (2#3 ++ 0x39#6 ++ s ++ d ++ tile ++ tl),
      [pfxWord 2 (0#2 ++ off), pfxWord 2 (0#10 ++ nseg)])
  | .vxChk s on => some (word (2#3 ++ 0x3A#6 ++ s ++ 0#19 ++ on), [])
  | .cpLoop q lev dsel cnt1 nlev step => some (word (copyE q ++ 0#5 ++ lev ++ dsel ++ 0#6 ++ cnt1),
      [pfxWord (copyE q) (0#6 ++ nlev ++ step)])
  | .cpOrg q val add comp => some (word (copyE q ++ 1#5 ++ val), [pfxWord (copyE q) (0#22 ++ add ++ comp)])
  | .cpPad q pad => some (word (copyE q ++ 2#5 ++ pad.extractLsb' 0 24),
      [pfxWord (copyE q) (0#18 ++ pad.extractLsb' 24 8)])
  | .cpIn c t h => some (copyWord 0 3 c t h, [])
  | .cpInCout c t h => some (copyWord 1 3 c t h, [])
  | .cpOut c t h => some (copyWord 1 4 c t h, [])
  | .cpOutCin c t h => some (copyWord 0 4 c t h, [])
  | .cpFill t h => some (copyWord 1 5 0 t h, [])
  | .cpFillCin t h => some (copyWord 0 5 0 t h, [])
  | .cpT2t q t src tdst rnd => some (copyWord q 6 0 t src, [pfxWord (copyE q) (tdst ++ rnd ++ 0#15)])
  | .cpGath q c t h ti => some (copyWord q 7 c t h, [pfxWord (copyE q) (ti ++ 0#18)])
  | .cpScat q c t h ti => some (copyWord q 8 c t h, [pfxWord (copyE q) (ti ++ 0#18)])
  | .cpRed q c t h op rnd res tr => some (copyWord q 9 c t h, [pfxWord (copyE q) (op ++ rnd ++ res ++ tr ++ 0#12)])
  | .cpPeer q c t h sig std => some (copyWord q 10 c t h, [pfxWord (copyE q) (sig ++ 0#13 ++ std)])
  | .cpDrain c s => some (word (4#3 ++ 11#5 ++ c ++ 0#9 ++ s ++ 0#8), [])
  | .cpDrainCin c s => some (word (3#3 ++ 11#5 ++ c ++ 0#9 ++ s ++ 0#8), [])
  | .kxIld ts ti => some (word (5#3 ++ 0#6 ++ 0#7 ++ ts ++ ti), [])
  | .kxSpmm f => some (f.encode 1)
  | .kxBspmm f => some (f.encode 2)
  | .kxSddmm f => some (f.encode 3)
  | .kxSpadd neg blk tv ti tc rnd sat => some (word (5#3 ++ 4#6 ++ neg ++ blk ++ 0#5 ++ tv ++ ti),
      [pfxWord 5 (0#8 ++ tc ++ rnd ++ sat ++ 0#6)])
  | .kxSort f n tcn cen => some (f.encode 32, [pfxWord 5 (n ++ tcn ++ cen ++ 0#1)])
  | .kxMerge f tl nseg => some (f.encode 33, [pfxWord 5 (tl ++ nseg ++ 0#2)])
  | .kxSsort f tl nseg => some (f.encode 34, [pfxWord 5 (tl ++ nseg ++ 0#2)])
  | .kxCmpct kt ven tv tk n tcn cen => some (KxKey.encode 35 { kt := kt, desc := 0, ven := ven, tv := tv, tk := tk },
      [pfxWord 5 (n ++ tcn ++ cen ++ 0#1)])
  | .kxUniq kt ven tv tk => some (KxKey.encode 36 { kt := kt, desc := 0, ven := ven, tv := tv, tk := tk }, [])
  | .kxTopk f n k1 => some (f.encode 37, [pfxWord 5 (n ++ k1)])
  | _ => none

/-- A packet header (R61). -/
def pktHeader {v : Nat} (op : BitVec 6) (ndw : BitVec 10) (fd : BitVec v) : W32 := word (op ++ ndw ++ fd)
/-- The two dwords of a packet address. -/
def PAddr.encode (a : PAddr) : List W32 := [a.off.extractLsb' 0 32, word (a.buf ++ a.off.extractLsb' 32 8)]
/-- The two dwords of a value, low first. -/
def valDwords (v : Word) : List W32 := [v.extractLsb' 0 32, v.extractLsb' 32 32]

/-- A packet: header and payload. The payload of a NOP may be anything (R371); the encoder writes zeros. -/
def encodePacket : Instr → Option (W32 × List W32)
  | .nop ndw => some (pktHeader 0 ndw 0#16, List.replicate ndw.toNat 0)
  | .launch lix a tag => some (pktHeader 1 4 (0#15 ++ lix), a.encode ++ [tag, 0])
  | .ind a len => some (pktHeader 2 3 0#16, a.encode ++ [word (0#12 ++ len)])
  | .pred cmp a val skip => some (pktHeader 3 5 (0#13 ++ cmp), a.encode ++ valDwords val ++ [word (0#22 ++ skip)])
  | .loop rep1 body1 => some (pktHeader 4 0 (rep1 ++ body1), [])
  | .ffence => some (pktHeader 5 0 0#16, [])
  | .write a d => some (pktHeader 6 (BitVec.ofNat 10 (d.length + 2)) 0#16, a.encode ++ d)
  | .wait cmp a val => some (pktHeader 7 4 (0#13 ++ cmp), a.encode ++ valDwords val)
  | .signal op waitg a val => some (pktHeader 8 4 (0#13 ++ waitg ++ op), a.encode ++ valDwords val)
  | .dma src dst n => some (pktHeader 9 6 0#16, src.encode ++ dst.encode ++ [n, 0])
  | .iflush buf => some (pktHeader 10 1 0#16, [word (0#8 ++ buf)])
  | _ => none

/-- What carries an instruction, where something does: events, yard commands and host actions have no encoding. -/
def encode (i : Instr) : Option Code :=
  match encodeGen i, encodeWord i, encodePacket i with
  | some w, _, _ => some (.gen w)
  | none, some (w, ps), _ => some (.word w ps)
  | none, none, some (h, ds) => some (.packet h ds)
  | none, none, none => none

/-! ### What one word of the opcode table carries -/

/-- The custom opcodes of Xzg (R45). -/
def isCustom (w : W32) : Bool :=
  field w 0 7 == 0x0B#7 || field w 0 7 == 0x2B#7 || field w 0 7 == 0x5B#7 || field w 0 7 == 0x7B#7

/-- What one 32-bit word of the opcode table carries (log 13). The three kinds of word are separate number spaces
(R50, R61), and the host's number names none of them, so the first decoder that accepts it decides: Xzg, an engine
word without prefixes, a packet without payload, the RV64 base. -/
def tableCode (w : W32) : Code :=
  if isCustom w && (decodeGen w).toOption.isSome then .gen w
  else if (decodeWord w []).toOption.isSome then .word w []
  else if (decodePacket w []).toOption.isSome then .packet w []
  else .gen w

/-- The host's reading of a row's bits: every row that has bits has 32 of them. -/
def decodeTableWord (nbits w : Nat) : Option Instr :=
  if nbits ≤ 32 ∧ w < 2 ^ 32 then (decode (tableCode (BitVec.ofNat 32 w))).toOption else none

end Sys2Proof
end

