-- ==== Sys2Proof/Machine/Flags.lean ====
section
/-! DEFINITION. The tile status word and what raises it (R104 to R107), and the flag computations that several engines
share (R291, R322). -/
namespace Sys2Proof.Machine

/-- GCNT of a status word (R104). -/
def stGcnt (s : W32) : Nat := s.toNat / 2 ^ 18
/-- SATC of a status word. -/
def stSatc (s : W32) : Nat := s.toNat / 2 ^ 8 % 1024
/-- The flags of a status word. -/
def stFlags (s : W32) : Byte := s.setWidth 8
/-- A status word from its fields; SATC saturates at 1,023 and GCNT is 14 bits (R104). -/
def mkStatus (gcnt satc : Nat) (fl : Byte) : W32 :=
  BitVec.ofNat 32 (gcnt % 2 ^ 14 * 2 ^ 18 + min satc 1023 * 2 ^ 8 + fl.toNat)

/-- Raises flags and counts clamps in a status word (R106). -/
def raiseStatus (s : W32) (fl : Byte) (satc : Nat) : W32 := mkStatus (stGcnt s) (stSatc s + satc) (stFlags s ||| fl)
/-- Raises what one element raises. -/
def raiseRes (s : W32) (r : Res) : W32 := raiseStatus s r.flags r.satc
/-- The merge of a status word into a sidecar word (R107). -/
def mergeSidecar (old inc : W32) : W32 :=
  mkStatus (max (stGcnt old) (stGcnt inc)) (stSatc old + stSatc inc) (stFlags old ||| stFlags inc)

/-- The lesser or greater of two elements bit for bit (R291, R322): a NaN operand gives the canonical NaN and NANIN,
−0 counts as less than +0. -/
def pickRes (f : Fmt) (greater : Bool) (a b : Val) (x y : Nat) : Res :=
  if a.isNaN || b.isNaN then { bits := canonNaN f, flags := flNANIN, satc := 0 }
  else
    let first := if greater then !belowVal a b else !belowVal b a
    { bits := (if first then x else y) % 2 ^ fmtBits f, flags := 0, satc := 0 }

/-- An integer result at the width of a format: wrapped, or clamped with SAT and one count (R291). -/
def intRes (f : Fmt) (sat : Bool) (v : Int) : Res :=
  if sat then satInt f v else { bits := wrapN (fmtBits f) v, flags := 0, satc := 0 }

end Sys2Proof.Machine
end

