-- ==== Sys2Proof/Machine/Tab.lean ====
section
/-! DEFINITION. Sparse tables: lists of key and value in rising order of keys. An absent key reads as its reader's
default, so that equal contents of memory are equal lists. -/
namespace Sys2Proof.Machine

/-- A table from numbers to values. -/
abbrev Tab (α : Type) := List (Nat × α)

namespace Tab

/-- The value at k, if one is listed. -/
def find? {α : Type} : Tab α → Nat → Option α
  | [], _ => none
  | (j, v) :: t, k => if k = j then some v else find? t k

/-- The value at k, or d. -/
def get {α : Type} (d : α) (m : Tab α) (k : Nat) : α := (m.find? k).getD d

/-- Sets the value at k. -/
def put {α : Type} : Tab α → Nat → α → Tab α
  | [], k, v => [(k, v)]
  | (j, w) :: t, k, v =>
    if k < j then (k, v) :: (j, w) :: t
    else if k = j then (k, v) :: t
    else (j, w) :: put t k v

/-- Removes what is listed at k. -/
def erase {α : Type} (m : Tab α) (k : Nat) : Tab α := m.filter fun e => e.1 != k

/-- Replaces the value at k by f of it, d standing for an absent one. -/
def mod {α : Type} (d : α) (m : Tab α) (k : Nat) (f : α → α) : Tab α := m.put k (f (m.get d k))

/-- A table of at most cap entries with one more: when it is full and does not list k, its lowest key leaves. -/
def putIn {α : Type} (cap : Nat) (m : Tab α) (k : Nat) (v : α) : Tab α :=
  put (if (m.find? k).isNone && decide (cap ≤ m.length) then m.tail else m) k v

/-- Sets the values of consecutive keys upwards from k. -/
def putN {α : Type} (m : Tab α) (k : Nat) : List α → Tab α
  | [] => m
  | v :: vs => putN (m.put k v) (k + 1) vs

/-- Keys rise strictly from above lo. -/
def risesFrom {α : Type} : Nat → Tab α → Bool
  | _, [] => true
  | lo, (j, _) :: t => decide (lo ≤ j) && risesFrom (j + 1) t

end Tab

/-- Memory by byte: rising addresses, and no entry equal to 0, which is what an unlisted address reads as (log 6). Home
memory is a plain table of bytes, where an unlisted address has no value of its own. -/
abbrev Mem := Tab Byte

namespace Mem

/-- The byte at an address. -/
def read (m : Mem) (a : Nat) : Byte := Tab.get 0 m a

/-- Writes one byte; writing what an unlisted address reads as removes the entry. -/
def write (m : Mem) (a : Nat) (b : Byte) : Mem := if b = 0 then Tab.erase m a else Tab.put m a b

/-- The canonical form. -/
def wf (m : Mem) : Bool := Tab.risesFrom 0 m && m.all fun e => e.2 != 0

/-- n bytes upwards from a. -/
def readN (m : Mem) (a : Nat) : Nat → List Byte
  | 0 => []
  | n + 1 => m.read a :: readN m (a + 1) n

/-- Writes bytes upwards from a. -/
def writeN (m : Mem) (a : Nat) : List Byte → Mem
  | [] => m
  | b :: bs => writeN (m.write a b) (a + 1) bs

/-- Removes every listed byte whose address satisfies p. -/
def clear (m : Mem) (p : Nat → Bool) : Mem := m.filter fun e => !p e.1

end Mem

/-- Bytes as one number, low byte first (R2). -/
def leNat : List Byte → Nat
  | [] => 0
  | b :: bs => b.toNat + 256 * leNat bs

/-- The n bytes of a number, low byte first. -/
def leBytes (v : Nat) : Nat → List Byte
  | 0 => []
  | n + 1 => BitVec.ofNat 8 v :: leBytes (v / 256) n

end Sys2Proof.Machine
end

