-- ==== Sys2Proof/Machine/State.lean ====
section
/-! DEFINITION. The state of the package, its reset, and the reasons for which a step stops. Every piece of state that
the spec names stands here (INVENTORY.md lists each with its rule); the fields marked MODEL are the model's own. -/
namespace Sys2Proof.Machine

/-! ### Bay: tiles, capabilities, barriers -/

/-- A tile-table entry (R147). ROWS and COLS are held less 1; `passed` holds the queues that have passed the tile's
free marker (R160). -/
structure Tile where
  alloc : BitVec 2 := 0
  state : BitVec 2 := 0
  level : BitVec 1 := 0
  autoe : BitVec 1 := 0
  fmt : BitVec 4 := 0
  rows1 : BitVec 12 := 0
  cols1 : BitVec 12 := 0
  base : Nat := 0
  keyv : BitVec 1 := 0
  td : BitVec 12 := 0
  origin : List (BitVec 24) := []
  status : W32 := 0
  passed : BitVec 5 := 0
deriving DecidableEq, Repr, Inhabited

/-- A capability: a buffer id and rights R, W, T, S in bits 0 to 3 (R167). -/
structure Cap where
  buf : BufId := 0
  rights : BitVec 4 := 0
deriving DecidableEq, Repr, Inhabited

/-- A barrier (R208); OWNER is meaningful for shed barriers. -/
structure Barrier where
  exp : BitVec 16 := 0
  arr : BitVec 16 := 0
  gen : BitVec 16 := 0
  lastBay : BitVec 8 := 0
  lastAg : BitVec 3 := 0
  owner : Option CtxNo := none
deriving DecidableEq, Repr, Inhabited

/-- What a queue entry is: an engine word, a free marker (R159) or a TASK.END notify (R365). -/
inductive EntryKind where
  | word
  | marker (h : Byte)
  | notify
deriving DecidableEq, Repr, Inhabited

/-- A queue entry or waiting word (R118). seqNo is MODEL: the order of acceptance, which names the copies of one sync
word; held marks a sy.round that has made its advance (R233); fork is the number of wide releases and fences that the
generator had completed when the word was accepted (R203); since is the cycle in which a sync word was judged, from
which on it only waits (R421, R400). -/
structure Entry where
  kind : EntryKind := .word
  w : W32 := 0
  pfx : List W32 := []
  eseq : W32 := 0
  off : W32 := 0
  seed : Word := 0
  step : Word := 0
  seqNo : Nat := 0
  held : Bool := false
  fork : Nat := 0
  since : Option Nat := none
deriving DecidableEq, Repr, Inhabited

/-- A queue with its waiting list (R113, R114), its ISSUED count (R384), last notify with its provenance (R232, R383), wait counts (R208) and
round (R233). -/
structure Queue where
  wait : List Entry := []
  ent : List Entry := []
  issued : W32 := 0
  ntok : BitVec 19 := 0
  noff : W32 := 0
  neseq : W32 := 0
  wcnt : Tab (BitVec 16) := []
  rnd : Nat := 0
deriving DecidableEq, Repr, Inhabited

/-- A tensor descriptor as an engine word latched it: its 24 words (R179, R181). -/
abbrev Desc := List Word

/-! ### Generator -/

/-- An instruction's answer from the yard: what it will put where once the acknowledgement comes (R173). -/
structure YardAnswer where
  rd : Reg := 0
  val : Word := 0
  fault : Option (Nat × Word) := none
  ready : Bool := true
deriving DecidableEq, Repr, Inhabited

/-- What a generator that retires nothing waits for: it polls the instruction at its pc, or awaits the yard. -/
inductive GenWait where
  | poll (i : Instr) (waited : Nat)
  | yard (i : Instr) (a : YardAnswer)
deriving DecidableEq, Repr

/-- The generator (R108): registers by number, pc, mode (0 U, 1 S, 3 M), the Zazin CSRs of R112, and the standard CSRs
by number; sstatus, sie and sip are views of mstatus, mie and mip; mfault is a fault in M-mode firmware, of which the yard
has not yet killed the context (R393). -/
structure Gen where
  x : Tab Word := []
  pc : Word := 0
  mode : BitVec 2 := 3
  zclass : BitVec 4 := 0
  zrelmask : BitVec 15 := 0x7FFF
  srseed : Word := 0
  srstep : Word := 0
  hlimit : W32 := 0x00100000
  bbcSlot : BitVec 6 := 0
  bbcEn : BitVec 1 := 0
  bbcOff8 : BitVec 45 := 0
  csr : Tab Word := []
  wait : Option GenWait := none
  parked : Bool := false
  mfault : Bool := false
deriving DecidableEq, Repr

/-- The word-fault CSRs (R378). fresh is MODEL: the fault was recorded in the cycle that lasts, so that one of a lower queue
in the same cycle takes its place (R380). -/
structure WordFault where
  valid : Bool := false
  act : BitVec 2 := 0
  cause : Byte := 0
  npfx : BitVec 2 := 0
  qid : BitVec 3 := 0
  index : W32 := 0
  word : W32 := 0
  eseq : W32 := 0
  off : W32 := 0
  upc : W32 := 0
  kind : BitVec 1 := 0
  id : BitVec 12 := 0
  pos : BitVec 48 := 0
  fresh : Bool := false
deriving DecidableEq, Repr, Inhabited

/-! ### Matrix engine -/

/-- The engine state that mx.cfg sets (R250); M and N are held less 1. -/
structure MxCfg where
  m1 : BitVec 7 := 127
  n1 : BitVec 7 := 127
  afmt : BitVec 1 := 0
  sa : BitVec 1 := 0
  sb : BitVec 1 := 0
deriving DecidableEq, Repr, Inhabited

/-- An accumulator set (R240): element (i, j) is listed at 128 × i + j. -/
structure AccSet where
  val : Tab W32 := []
  afmt : BitVec 1 := 0
  ms1 : BitVec 7 := 127
  ns1 : BitVec 7 := 127
  gc : W32 := 0
  pf : Byte := 0
deriving DecidableEq, Repr, Inhabited

/-- A block scale of the weight buffer and the flags kept with it (R93, R247). -/
structure WScale where
  bits : W32 := 0x3F800000
  flags : Byte := 0
deriving DecidableEq, Repr, Inhabited

/-- The weight buffer (R247): WDATA element (row, column) is listed at 128 × row + column, the scale of block b and
column j at 128 × b + j. -/
structure Weights where
  data : Tab W32 := []
  scale : Tab WScale := []
  fmt : BitVec 4 := 12
  so : BitVec 1 := 0
  sb : BitVec 1 := 0
  g1 : BitVec 1 := 0
  hi : Nat := 0
deriving DecidableEq, Repr, Inhabited

/-- An executing matrix word (R244): its entry and decoding, UPC, what it latched at issue, whether a fault or stop
holds it, `again` that it goes on after a stop (R260). `acc` is the set's contents as of the boundary that mx.snap takes (R266);
`held` the scales of the groups that are left, A's and B's, once all of them have entered the array (R244). -/
structure MxJob where
  ent : Entry := {}
  instr : Instr
  upc : Nat := 0
  cfg : MxCfg := {}
  descA : Desc := []
  descB : Desc := []
  idA : BitVec 12 := 0
  idB : BitVec 12 := 0
  key : Option Desc := none
  index : W32 := 0
  acc : AccSet := {}
  again : Bool := false
  held : List (List Nat × List Nat) := []
deriving DecidableEq, Repr

/-- The matrix engine (R240 to R247). -/
structure Mx where
  cfg : MxCfg := {}
  acc0 : AccSet := {}
  acc1 : AccSet := {}
  w : Weights := {}
  arrays : List MxJob := []
  port : Option MxJob := none
deriving DecidableEq, Repr

/-! ### Vector engine -/

/-- A region slot (R270): KIND 0 unset, 1 strided, 2 segmented. -/
structure Slot where
  kind : BitVec 2 := 0
  tile : Byte := 0
  off : BitVec 24 := 0
  stride : BitVec 16 := 0
  count : Nat := 0
  tl : Byte := 0
  nseg : BitVec 16 := 0
deriving DecidableEq, Repr, Inhabited

/-- A vector write in flight (R276): the engine cycle in which it lands, the tile, positions and bits, flags and
clamps, and the boxes it belongs to. -/
structure VxPend where
  land : Nat := 0
  tile : Byte := 0
  cells : List (Nat × Nat) := []
  flags : Byte := 0
  satc : Nat := 0
deriving DecidableEq, Repr, Inhabited

/-- A stopped vector word (R281): its entry, UPC, latched slots with the lengths it read (R272) and the key descriptor it
read at issue (R181). due is the tile and position of the hazard at which it stands: it is raised when nothing else is held
or stops the bay, and the word goes on once BAY.RESUME has answered it (R281, R282). -/
structure VxJob where
  ent : Entry := {}
  instr : Instr
  upc : Nat := 0
  slots : Tab Slot := []
  lens : Tab (List Nat) := []
  index : W32 := 0
  key : Option Desc := none
  due : Option (Byte × Nat) := none
deriving DecidableEq, Repr

/-- The vector engine (R270, R276 to R278): slots, CHK, the engine clock, the issue cycle and beats of the word before,
the writes in flight and a stopped word. -/
structure Vx where
  slots : Tab Slot := []
  chk : BitVec 1 := 0
  clk : Nat := 0
  prevT : Nat := 0
  prevB : Nat := 0
  pend : List VxPend := []
  stopped : Option VxJob := none
deriving DecidableEq, Repr

/-! ### Copy engine -/

/-- One level of a copy queue's loop nest (R303): CNT as cp.loop sets it, 1 to 4,096, and 0 from dispatch until then. -/
structure CpLevel where
  dsel : BitVec 3 := 0
  step : BitVec 16 := 0
  cnt : Nat := 0
deriving DecidableEq, Repr, Inhabited

/-- An executing data copy (R310): its entry and decoding, rows completed, the origin, nest and PAD of its issue, the
descriptors it latched; srcDone once its source tile is read, srcStatus its status word then (R318), and merged once that
has been sent to the sidecar (R107, R325). -/
structure CpJob where
  ent : Entry := {}
  instr : Instr
  upc : Nat := 0
  origin : List (BitVec 24) := []
  nlev : BitVec 4 := 0
  levels : List CpLevel := []
  pad : W32 := 0
  desc : Desc := []
  desc2 : Desc := []
  index : W32 := 0
  srcDone : Bool := false
  srcStatus : W32 := 0
  merged : Bool := false
  oob : Bool := false
  bytes : Nat := 0
deriving DecidableEq, Repr

/-- The state of one copy queue (R303, R307, R383). -/
structure Cp where
  org : List (BitVec 24) := []
  orgv : BitVec 1 := 0
  pad : W32 := 0
  nlev : BitVec 4 := 0
  levels : List CpLevel := []
  bytes : Word := 0
  last : Word := 0
  jobs : List CpJob := []
deriving DecidableEq, Repr

/-- The copy word that sent something on its way to a home: its bay, queue and class, its order of acceptance, the row that
sent it, and the tensor and coordinate that a fault names (R304, R310, R407). -/
structure Sender where
  bay : BayNo
  q : BitVec 1
  cls : BitVec 4
  seqNo : Nat := 0
  row : Nat := 0
  tensor : BitVec 12 := 0
  pos : Nat := 0
deriving DecidableEq, Repr

/-- A value on its way to its home loft: one cp.red element (R304, R322). -/
structure Red where
  ctx : CtxNo
  buf : BufId
  bit : Nat
  fmt : BitVec 4
  op : BitVec 2
  bits : Nat
  src : Sender
  side : Option (BufId × Nat) := none
  hist : Option (BufId × Nat × Byte) := none
deriving DecidableEq, Repr

/-- A histogram increment on its way (R103): the counter's byte offset in its buffer. -/
structure Hist where
  ctx : CtxNo
  buf : BufId
  off : Nat
  src : Sender
deriving DecidableEq, Repr

/-- A sidecar merge on its way (R107). -/
structure Side where
  ctx : CtxNo
  buf : BufId
  off : Nat
  status : W32
  src : Sender
deriving DecidableEq, Repr

/-! ### Class engine -/

/-- The header of an index tile (R334): index rows and columns, entries, and the first row pointer. -/
structure IdxHead where
  m : Nat := 0
  nc : Nat := 0
  nnz : Nat := 0
  first : Int := 0
deriving DecidableEq, Repr, Inhabited

/-- An executing class-engine word (R332, R342): the count it resolved, and the key descriptor and the header values of
its index tile that it latched at issue. -/
structure KxJob where
  ent : Entry := {}
  instr : Instr
  upc : Nat := 0
  n : Nat := 0
  index : W32 := 0
  key : Option Desc := none
  head : IdxHead := {}
deriving DecidableEq, Repr

/-- The class engine: the sort engine's CNT (R342) and the executing word. -/
structure Kx where
  cnt : W32 := 0
  job : Option KxJob := none
deriving DecidableEq, Repr

/-! ### Bay -/

/-- An entry of the capability lookaside (R171): the rights, size, placement and home of a slot's buffer. -/
structure Look where
  rights : BitVec 4 := 0
  size : Nat := 0
  pin : BitVec 1 := 0
  loft : BitVec 3 := 0
  pg2m : BitVec 1 := 0
  host : Option Word := none
  imp : Option (BitVec 6 × CtxNo × BufId) := none
deriving DecidableEq, Repr, Inhabited

/-- One bay (R13). look is the capability lookaside by 2^24 × slot + buffer (R171), dlines the generator's data cache by
line key (R110, R192); forks counts the wide releases and fences of the generator and forked those that the words' acquire
has followed (R203); judged is MODEL: how many queues, in ascending id, the current cycle has judged (R151). The queues stand in the order of R51; pend holds pending prefixes with their target E, oldest first; counters the counter cache as (buffer, byte offset, delta), most recently used first (R138); saving, saveCount: a pre-emption in progress (R385, R391); hangCount, hangOnce: the hang watchdog (R390). -/
structure Bay where
  task : Option TaskId := none
  ctx : CtxNo := 0
  lastCtx : Option CtxNo := none
  args : List Word := []
  capm : BitVec 6 := 0
  code : BufId := 0
  csize : Nat := 0
  gen : Gen := {}
  caps : Tab Cap := []
  look : Tab Look := []
  dlines : Tab (List Byte) := []
  icache : Tab (List Byte) := []
  dcache : Tab Desc := []
  firmware : Mem := []
  tiles : Tab Tile := []
  store : Mem := []
  bars : Tab Barrier := []
  wcnt : Tab (BitVec 16) := []
  slipMask : BitVec 5 := 0
  slipDepth : BitVec 4 := 0
  counters : List (BufId × Nat × W32) := []
  eseq : W32 := 0
  pend : List (Nat × W32) := []
  seqNo : Nat := 0
  forks : Nat := 0
  forked : Nat := 0
  judged : Nat := 0
  mtx : Queue := {}
  vec : Queue := {}
  cin : Queue := {}
  cout : Queue := {}
  cls : Queue := {}
  mx : Mx := {}
  vx : Vx := {}
  cpIn : Cp := {}
  cpOut : Cp := {}
  kx : Kx := {}
  wf : WordFault := {}
  debugStop : Bool := false
  saving : Bool := false
  saveCount : Nat := 0
  hangCount : Nat := 0
  hangOnce : Bool := false
deriving DecidableEq, Repr

/-! ### Shed -/

/-- A shed-cache line (R200): its 64 bytes, which of them are dirty, and its class mask. -/
structure Line where
  data : List Byte := []
  dirty : BitVec 64 := 0
  mask : BitVec 16 := 0
deriving DecidableEq, Repr, Inhabited

/-- A ring (R217): slot values and consumer masks by index, and the cursors by bay position. -/
structure Ring where
  val : Tab Word := []
  cmask : Tab (BitVec 16) := []
  head : BitVec 16 := 0
  tail : BitVec 16 := 0
  cur : Tab (BitVec 16) := []
  dn : Tab (BitVec 16) := []
  owner : Option CtxNo := none
deriving DecidableEq, Repr, Inhabited

/-- A shed: its cache by line key, its pool by byte, its key (R154), barriers (R208), rings (R217), throttle level and
counters (R412). -/
structure Shed where
  cache : Tab Line := []
  pool : Mem := []
  key : Word := 0
  bars : Tab Barrier := []
  rings : Tab Ring := []
  level : BitVec 3 := 0
  levels : Tab Word := []
deriving DecidableEq, Repr, Inhabited

/-! ### Loft -/

/-- A loft: its traffic counters (R402), the tags of its translation cache as 2^33 × (2^24 × context + buffer) + page
(R184), the tags of the lines of its cache slice (R29, R184), and the frames of its remapped pages by the tag of the page
(R185). The cache's bytes are those of the home memory behind it. -/
structure Loft where
  ctr : Tab Word := []
  tlb : Tab Unit := []
  lines : Tab Unit := []
  moved : Tab Nat := []
deriving DecidableEq, Repr, Inhabited

/-! ### Yard -/

/-- The states of a task slot (R347). -/
inductive TaskState where
  | free | waiting | ready | running | saved | ending
deriving DecidableEq, Repr, Inhabited

/-- A task's saved state (R386): the container's offset in the save area and what it holds; KIND is the bay class. -/
structure Saved where
  off : Nat
  len : Nat
  kind : Nat
  bayNo : BayNo
  img : Bay
deriving DecidableEq, Repr

/-- What placing a task took from its code-table entry and code object (R351, R353, R73): the code buffer and size, the
main entry, the fallback class code, entry and busy limit, and whether the fallback is usable (R22). -/
structure CodeRef where
  buf : BufId := 0
  size : Nat := 0
  entry : Nat := 0
  fclass : Nat := 0
  fentry : Nat := 0
  fbusy : Nat := 0
  usable : Bool := false
deriving DecidableEq, Repr, Inhabited

/-- A task slot (R347): the record as placed, its code, its arguments and CAPM as they stand, the class queue the task waits in,
whether it runs at its fallback entry, its bay and dispatch order, and its saved state. -/
structure TaskSlot where
  state : TaskState := .free
  ctx : CtxNo := 0
  cntr : BitVec 16 := 0
  graph : BitVec 12 := 0
  gbase : BitVec 16 := 0
  age : Nat := 0
  endf : Bool := false
  record : BitVec 512 := 0
  code : CodeRef := {}
  args : List Word := []
  capm : BitVec 6 := 0
  cls : BitVec 2 := 0
  fallback : Bool := false
  bay : BayNo := 0
  order : Nat := 0
  saved : Option Saved := none
deriving DecidableEq, Repr

/-- A live graph (R362). -/
structure Graph where
  ntask : Nat
  ctx : CtxNo
  den : Bool
  dbuf : BufId
  doff : Nat
  sq : BitVec 6
  killed : Bool := false
deriving DecidableEq, Repr

/-- A decrement on its way to the counting unit (R354): its source task and bay; dec is 1 for a completion and 2 for a
TASK.DEC. A completion gives one for each successor. -/
structure Decrement where
  src : TaskId
  bay : BayNo
  ctx : CtxNo
  dec : BitVec 8
  target : TaskId
  /-- the first of its completion or TASK.DEC, and the last: then the slot of the source becomes FREE -/
  first : Bool := false
  last : Bool := false
  /-- the read of this successor failed (R357) -/
  bad : Bool := false
  /-- the cycle in which it arrived (R354) -/
  time : Nat := 0
deriving DecidableEq, Repr

/-- The yard's counting unit in the current cycle (R354): how many completions and TASK.DECs it has taken up, how many
decrements of the last of them it has applied, and the least source bay whose decrements may still arrive in this cycle. -/
structure CountUnit where
  taken : Nat := 0
  applied : Nat := 0
  floor : Nat := 0
deriving DecidableEq, Repr, Inhabited

/-- A buffer (R165, R166, R169, R186): host holds the bus address of a host-resident one, imp the home of an imported
one; byNew marks those that CAP.NEW created (R394). A byte that nothing has written reads 0 without a seed, and with one
as a free value of it: what the pages held, under this buffer's key and incarnation (R174, R186). -/
structure Buf where
  size : Nat := 0
  pin : BitVec 1 := 0
  loft : BitVec 3 := 0
  pg2m : BitVec 1 := 0
  host : Option Word := none
  imp : Option (BitVec 6 × CtxNo × BufId) := none
  rights : BitVec 4 := 15
  count : W32 := 1
  inc : BitVec 48 := 0
  byNew : Bool := false
  seed : Option Nat := none
deriving DecidableEq, Repr, Inhabited

/-- A context entry (R394) with its keys and incarnation counter (R154, R186). -/
structure Ctx where
  valid : Bool := false
  pre : BitVec 1 := 0
  tren : BitVec 1 := 0
  dom : BitVec 1 := 0
  func : BitVec 6 := 0
  urgm : BitVec 15 := 0
  qslot : BitVec 17 := 0
  svmib : BitVec 16 := 0
  trlg : BitVec 8 := 0
  evlg : BitVec 8 := 6
  swlimit : W32 := 0x400
  evhead : W32 := 0
  evtail : W32 := 0
  evdrop : Word := 0
  rtkib : BitVec 16 := 0
  rtvec : BitVec 30 := 0
  mquota : W32 := 0
  mused : BitVec 48 := 0
  hk : Word := 0
  xts : List Word := []
  incs : Nat := 0
deriving DecidableEq, Repr, Inhabited

/-- One level of a submission queue (R369, R370): its indirect buffer and offset (none for the ring) and length, the
position of the next packet, and the dwords fetched from there on. -/
structure Level where
  buf : Option (BufId × Nat) := none
  len : Nat := 0
  pos : Nat := 0
  win : List W32 := []
deriving DecidableEq, Repr, Inhabited

/-- A LOOP under way (R373): its level, where the body starts and ends, passes left and the pass index. -/
structure LoopState where
  level : Nat
  start : Nat
  count : Nat
  left : Nat
  passes : Nat
  pass : Nat
deriving DecidableEq, Repr, Inhabited

/-- A submission queue (R368): its registers, its owner (log 12), its levels, the packets a PRED still skips, a LOOP
under way, whether a packet waits, the header and records of a LAUNCH that waits (R372), and whether a breakpoint has let
the packet pass (R376). -/
structure Sq where
  rbase : BitVec 52 := 0
  halt : Bool := false
  en : Bool := false
  urg : Bool := false
  lsize : BitVec 5 := 10
  tail : BitVec 22 := 0
  head : BitVec 22 := 0
  bpn : BitVec 2 := 0
  stat : Byte := 0
  soff : BitVec 30 := 0
  slev : BitVec 2 := 0
  func : BitVec 6 := 0
  ctx : CtxNo := 0
  levels : List Level := [{}]
  skip : Nat := 0
  loop : Option LoopState := none
  waiting : Bool := false
  image : Option (BitVec 512 × List (BitVec 512)) := none
  bpPass : Bool := false
deriving DecidableEq, Repr, Inhabited

/-- The command block (R396); pend holds the status and result of a command whose end the yard has still to write. -/
structure Cmd where
  pend : Option (Byte × BitVec 24) := none
  cmd : Word := 0
  busy : Bool := false
  code : Byte := 0
  result : BitVec 24 := 0
  arg0 : Word := 0
  arg1 : Word := 0
  arg2 : Word := 0
  arg3 : Word := 0
deriving DecidableEq, Repr, Inhabited

/-- The debug block (R398 to R401): packet and code breakpoints and watchpoints as their bits, and CUTSEL. -/
structure Debug where
  pbp : List (BitVec 128) := []
  cbp : List (BitVec 128) := []
  wp : List (BitVec 256) := []
  cutsel : BitVec 8 := 0
deriving DecidableEq, Repr, Inhabited

/-- What this package is (R1, R10, R18, R19): ordering code, populated and live bays of each shed, STAT of each chiplet,
number and domain size. -/
structure Die where
  code : Byte := 1
  bpop : List (BitVec 16) := []
  blive : List (BitVec 16) := []
  stat : List (BitVec 2) := []
  pkg : BitVec 6 := 0
  dsize : BitVec 7 := 1
deriving DecidableEq, Repr, Inhabited

/-- The boot state (R408, R409): BOOTST, the REASON of the last failing boot, which recovery mode shows, the flash with its image, signature and security version, the fused values,
and an image that LOADFW left for one boot. -/
structure BootSt where
  done : Bool := false
  fail : Bool := false
  recov : Bool := false
  reason : Byte := 0
  lastReason : Byte := 0
  fails : BitVec 4 := 0
  measure : List (BitVec 256) := []
  image : List Byte := []
  sign : List Byte := []
  secver : W32 := 0
  pubkey : BitVec 256 := 0
  keyFuse : BitVec 256 := 0
  minFuse : W32 := 0
  loadfw : Option (List Byte) := none
deriving DecidableEq, Repr, Inhabited

/-- A package link (R405, R407, R412). -/
structure Link where
  up : Bool := true
  replays : Word := 0
  downs : Word := 0
deriving DecidableEq, Repr, Inhabited

/-- The yard (R347 to R376, R394 to R399). busy holds the busy count of each class; of the current cycle, fellBack holds the
classes from which a task has been moved (R24), dispatched those of which one has been dispatched (R359), and unit what the
counting unit has done (R354). -/
structure Yard where
  slots : Tab TaskSlot := []
  graphs : Tab Graph := []
  busy : List Nat := []
  fellBack : BitVec 4 := 0
  dispatched : BitVec 4 := 0
  preBusy : BitVec 4 := 0
  decs : List Decrement := []
  unit : CountUnit := {}
  orders : Nat := 0
  bufs : Tab Buf := []
  ctxs : Tab Ctx := []
  cmd : Cmd := {}
  sqs : Tab Sq := []
  dbg : Debug := {}
deriving DecidableEq, Repr

/-! ### Package -/

/-- MODEL: what happens next. A program's own actions (a generator step, a queue head, a packet) are executed as the
decoded instruction; the others are the package's own doing and the outside world's. -/
inductive Action where
  /-- the generator of a bay: an interrupt or its next instruction -/
  | gen (b : BayNo)
  /-- the head of a queue of a bay -/
  | issue (b : BayNo) (q : QId)
  /-- the next packet of a submission queue -/
  | packet (q : BitVec 6)
  /-- an event of the opcode table, a yard command or a host action -/
  | event (i : Instr)
  /-- one row of an executing word: unit 0 copy cin, 1 copy cout, 2 matrix port, 3 class engine; k picks the word -/
  | row (b : BayNo) (u : BitVec 2) (k : Nat)
  /-- n cycles pass -/
  | tick (n : Nat)
  /-- a shed cache writes back and drops one line -/
  | evict (shed : BitVec 4) (key : Nat)
  /-- a bay's instruction cache drops one line -/
  | ievict (b : BayNo) (key : Nat)
  /-- a bay's descriptor cache drops one entry -/
  | devict (b : BayNo) (id : BitVec 12)
  /-- a bay's capability lookaside takes the entry of a slot, or drops an entry -/
  | look (b : BayNo) (slot : BitVec 6)
  | unlook (b : BayNo) (key : Nat)
  /-- a bay's data cache takes a line that its shed cache holds, or drops one -/
  | dfill (b : BayNo) (key : Nat)
  | ddrop (b : BayNo) (key : Nat)
  /-- a loft drops an entry of its translation cache, or a line of its cache -/
  | tdrop (loft : BitVec 3) (key : Nat)
  | ldrop (loft : BitVec 3) (key : Nat)
  /-- the driver assigns a submission queue to a function and a context (R368) -/
  | assign (q : BitVec 6) (fn : BitVec 6) (ctx : CtxNo)
  /-- the host writes its own memory -/
  | hostStore (bus : Word) (bytes : List Byte)
  /-- a peer package writes its own memory -/
  | peerStore (pkg : BitVec 6) (ctx : CtxNo) (buf : BufId) (off : BitVec 48) (bytes : List Byte)
  /-- the host reads BAR0 of a function, or BAR2 (R404) -/
  | regRead (fn : BitVec 6) (bar2 : Bool) (off : BitVec 17)
  /-- the flash is written -/
  | flash (image sign : List Byte) (secver : W32) (pubkey : BitVec 256)
deriving DecidableEq, Repr

/-- The package. remote lists the packages that no path reaches any longer; losing is MODEL: in the cycle that lasts a link has
gone down, and requests to other packages are lost with it (R407). -/
structure State where
  agenda : List Action := []
  cur : BayNo := 0
  curQ : QId := 0
  curSq : BitVec 6 := 0
  now : Nat := 0
  freeCtr : Nat := 0
  die : Die := {}
  boot : BootSt := {}
  disc : List Byte := []
  mem : Tab Byte := []
  host : Mem := []
  sheds : Tab Shed := []
  bays : Tab Bay := []
  yard : Yard := {}
  msix : List (BitVec 6 × Nat) := []
  hostRead : List Byte := []
  reds : List Red := []
  hists : List Hist := []
  sides : List Side := []
  links : Tab Link := []
  remote : List (BitVec 6) := []
  losing : Bool := false
  lofts : Tab Loft := []
  frames : Nat := 0
deriving DecidableEq, Repr

/-! ### Faults and refusals -/

/-- Why the machine stops with a fault. Nothing in the spec stops the package; the one reason below is a safe stop. -/
inductive Fault where
  /-- An action names a bay number that no chiplet populates (R11): raised by the bay events. Safe: the hardware has
  no such bay, so the model stops where nothing exists. -/
  | absentBay
deriving DecidableEq, Repr

/-- Why an instruction has no meaning. -/
inductive Refusal where
  /-- No meaning is modelled for the instruction; raised by no arm once every row has its meaning. Safe. -/
  | notModelled (mnemonic : String)
deriving DecidableEq, Repr

/-! ### Reset -/

/-- The generator's standard CSRs at package reset (log 1): misa RV64 with A, I, M, S, U; every exception cause of R143
and the two bay interrupts delegated to S mode; the others 0. -/
def resetCsr : Tab Word :=
  [(0x300, 0xA00000000#64), (0x301, 0x8000000000141101#64), (0x302, 0x003F00001F0001FF#64), (0x303, 0x30000#64)]

/-- A bay at package reset: R112 and R249 give the fields' values, log 1 the rest. -/
def Bay.reset : Bay := { gen := { csr := resetCsr } }

/-- The package as delivered (log 4): a ZW-B2-P, every chiplet and bay live. -/
def Die.reset : Die :=
  { code := 1
    bpop := List.replicate 10 0x00FF#16 ++ List.replicate 4 0xFFFF#16 ++ List.replicate 2 0x00FF#16
    blive := List.replicate 10 0x00FF#16 ++ List.replicate 4 0xFFFF#16 ++ List.replicate 2 0x00FF#16
    stat := List.replicate 26 1#2
    pkg := 0
    dsize := 1 }

/-- The machine right after package reset. -/
def State.reset : State := { die := Die.reset }

end Sys2Proof.Machine
end

