-- ==== Sys2Proof/Machine/Ops.lean ====
section
/-! DEFINITION. The shared operations: bays, registers, memory through the shed cache and at the home, release and
acquire, events and trace records, taking an exception and returning from one. -/
namespace Sys2Proof.Machine

/-! ### Population and bays (R10, R11, R14) -/

/-- The KIND of a shed number (R10, R19): 3 dense, 4 sparse, 5 vector, 6 sort. -/
def shedKind (shed : BitVec 4) : Nat :=
  if shed.toNat < 8 then 3 else if shed.toNat < 10 then 4 else if shed.toNat < 14 then 5 else 6

/-- The shed of a bay (R11). -/
def shedOf (b : BayNo) : BitVec 4 := b.extractLsb' 4 4
/-- The position of a bay within its shed (R11). -/
def posOf (b : BayNo) : BitVec 4 := b.extractLsb' 0 4
/-- The KIND of a bay (R19). -/
def bayKind (b : BayNo) : Nat := shedKind (shedOf b)

/-- Whether a bay of a KIND has queue q (R13, R14, R51). -/
def queueExists (kind : Nat) (q : Nat) : Bool :=
  match q with
  | 0 => kind == 3
  | 1 | 2 | 3 => true
  | 4 => kind == 4 || kind == 6
  | _ => false

/-- The existing queues of a KIND, as a mask and as ids. -/
def queueMask (kind : Nat) : BitVec 5 :=
  if kind = 3 then 0b01111 else if kind = 5 then 0b01110 else 0b11110
/-- The ids of the existing queues in ascending order. -/
def queueIds (kind : Nat) : List Nat := [0, 1, 2, 3, 4].filter (queueExists kind)

/-- Lanes of the vector engine (R13). -/
def bayLanes (kind : Nat) : Nat := if kind = 5 then 512 else 64

namespace State

/-- A bay's state. -/
def bay (s : State) (b : BayNo) : Bay := Tab.get Bay.reset s.bays b.toNat
/-- Replaces a bay's state. -/
def setBay (s : State) (b : BayNo) (v : Bay) : State := { s with bays := s.bays.put b.toNat v }
/-- Applies f to a bay's state. -/
def modBay (s : State) (b : BayNo) (f : Bay → Bay) : State := s.setBay b (f (s.bay b))
/-- A shed's state. -/
def shed (s : State) (n : BitVec 4) : Shed := Tab.get {} s.sheds n.toNat
/-- Replaces a shed's state. -/
def setShed (s : State) (n : BitVec 4) (v : Shed) : State := { s with sheds := s.sheds.put n.toNat v }
/-- Applies f to a shed's state. -/
def modShed (s : State) (n : BitVec 4) (f : Shed → Shed) : State := s.setShed n (f (s.shed n))
/-- A context entry. -/
def ctx (s : State) (c : CtxNo) : Ctx := Tab.get {} s.yard.ctxs c.toNat
/-- Applies f to the yard. -/
def modYard (s : State) (f : Yard → Yard) : State := { s with yard := f s.yard }
/-- Applies f to a context entry. -/
def modCtx (s : State) (c : CtxNo) (f : Ctx → Ctx) : State :=
  s.modYard fun y => { y with ctxs := y.ctxs.put c.toNat (f (Tab.get {} y.ctxs c.toNat)) }
/-- A task slot. -/
def slot (s : State) (t : TaskId) : TaskSlot := Tab.get {} s.yard.slots t.toNat
/-- Replaces a task slot. -/
def setSlot (s : State) (t : TaskId) (v : TaskSlot) : State :=
  s.modYard fun y => { y with slots := y.slots.put t.toNat v }
/-- Applies f to a task slot. -/
def modSlot (s : State) (t : TaskId) (f : TaskSlot → TaskSlot) : State := s.setSlot t (f (s.slot t))
/-- A submission queue. -/
def sq (s : State) (q : BitVec 6) : Sq := Tab.get {} s.yard.sqs q.toNat
/-- Applies f to a submission queue. -/
def modSq (s : State) (q : BitVec 6) (f : Sq → Sq) : State :=
  s.modYard fun y => { y with sqs := y.sqs.put q.toNat (f (Tab.get {} y.sqs q.toNat)) }
/-- Draws one free value and advances the counter that names the next (log 3). -/
def draw (s : State) : Word × State := (Config.freeValue s.freeCtr, { s with freeCtr := s.freeCtr + 1 })
/-- Raises an MSI-X interrupt (R404). -/
def interrupt (s : State) (func : BitVec 6) (vec : Nat) : State := { s with msix := s.msix ++ [(func, vec)] }
/-- Whether the chiplet of a shed is live (R19). -/
def shedUp (s : State) (n : BitVec 4) : Bool := s.die.stat.getD (10 + n.toNat) 0 == 1
/-- BPOP of a shed: 0 unless its chiplet is live (R19, R20). -/
def popMask (s : State) (n : BitVec 4) : BitVec 16 := if s.shedUp n then s.die.bpop.getD n.toNat 0 else 0
/-- BLIVE of a shed, a subset of BPOP (R19, R20). -/
def liveMask (s : State) (n : BitVec 4) : BitVec 16 := s.popMask n &&& s.die.blive.getD n.toNat 0
/-- Whether a bay number names a live bay (R20). -/
def live (s : State) (b : BayNo) : Bool := (s.liveMask (shedOf b)).getLsbD (posOf b).toNat
/-- Whether a bay number names a populated bay of a live chiplet (R11, R19, R20). -/
def populated (s : State) (b : BayNo) : Bool := (s.popMask (shedOf b)).getLsbD (posOf b).toNat

end State

namespace Bay

/-- A queue by its id (R51). -/
def queue (b : Bay) (q : Nat) : Queue :=
  match q with
  | 0 => b.mtx
  | 1 => b.vec
  | 2 => b.cin
  | 3 => b.cout
  | _ => b.cls
/-- Replaces a queue. -/
def setQueue (b : Bay) (q : Nat) (v : Queue) : Bay :=
  match q with
  | 0 => { b with mtx := v }
  | 1 => { b with vec := v }
  | 2 => { b with cin := v }
  | 3 => { b with cout := v }
  | _ => { b with cls := v }
/-- Applies f to a queue. -/
def modQueue (b : Bay) (q : Nat) (f : Queue → Queue) : Bay := b.setQueue q (f (b.queue q))
/-- The state of a copy queue: 0 cin, 1 cout. -/
def cp (b : Bay) (q : BitVec 1) : Cp := if q = 0 then b.cpIn else b.cpOut
/-- Replaces the state of a copy queue. -/
def setCp (b : Bay) (q : BitVec 1) (v : Cp) : Bay := if q = 0 then { b with cpIn := v } else { b with cpOut := v }
/-- A tile-table entry. -/
def tile (b : Bay) (h : Byte) : Tile := Tab.get {} b.tiles h.toNat
/-- Replaces a tile-table entry. -/
def setTile (b : Bay) (h : Byte) (v : Tile) : Bay := { b with tiles := b.tiles.put h.toNat v }
/-- Applies f to the generator. -/
def modGen (b : Bay) (f : Gen → Gen) : Bay := { b with gen := f b.gen }

end Bay

/-! ### Registers (R37) -/

/-- x[r]; x0 reads 0. -/
def Gen.rd (g : Gen) (r : Reg) : Word := if r = 0 then 0 else Tab.get 0 g.x r.toNat
/-- x[r] := v; a write of x0 is discarded. -/
def Gen.wr (g : Gen) (r : Reg) (v : Word) : Gen := if r = 0 then g else { g with x := g.x.put r.toNat v }
/-- A standard CSR by number. -/
def Gen.csrRd (g : Gen) (n : Nat) : Word := Tab.get 0 g.csr n
/-- Sets a standard CSR. -/
def Gen.csrWr (g : Gen) (n : Nat) (v : Word) : Gen := { g with csr := g.csr.put n v }

/-- Sign extension to 64 bits. -/
def sext {n : Nat} (v : BitVec n) : Word := v.signExtend 64
/-- Zero extension to 64 bits. -/
def zext {n : Nat} (v : BitVec n) : Word := v.setWidth 64
/-- b ? 1 : 0. -/
def boolW (b : Bool) : Word := if b then 1 else 0

/-- Progress (R390): the hang count restarts and a first expiry is forgotten. -/
def Bay.progress (b : Bay) : Bay := { b with hangCount := 0, hangOnce := false }

/-- One more retired instruction in minstret, unless mcountinhibit bit 2 is set (log 1). -/
def Gen.countRetire (g : Gen) : Gen :=
  if (g.csrRd 0x320).getLsbD 2 then g else g.csrWr 0xB02 (g.csrRd 0xB02 + 1)

/-- An instruction retires: the pc moves to npc, a wait ends, the hang count restarts. -/
def Bay.retireTo (b : Bay) (npc : Word) : Bay :=
  (b.modGen fun g => { g.countRetire with pc := npc, wait := none }).progress
/-- An instruction retires and the pc moves past it. -/
def Bay.retire (b : Bay) : Bay := b.retireTo (b.gen.pc + 4)
/-- An instruction retires with a result. -/
def Bay.retireWith (b : Bay) (rd : Reg) (v : Word) : Bay := (b.modGen fun g => g.wr rd v).retire

/-! ### Taking an exception or interrupt, and returning (R141, R143, R144) -/

/-- The generator faults' cause numbers (R143). -/
def cMisaligned : Nat := 0
def cFetch : Nat := 1
def cIllegal : Nat := 2
def cBreak : Nat := 3
def cLoadAlign : Nat := 4
def cLoadAccess : Nat := 5
def cStoreAlign : Nat := 6
def cStoreAccess : Nat := 7
def cCapability : Nat := 24
def cBounds : Nat := 25
def cOperand : Nat := 26
def cExpired : Nat := 27
def cUnderflow : Nat := 28
def cReservedEngine : Nat := 48
def cEngineAbsent : Nat := 49
def cEmptyMask : Nat := 50
def cBadPrefix : Nat := 51
def cPrefixOverflow : Nat := 52
def cPrefixCount : Nat := 53

/-- Replaces n bits of v from bit lo upwards. -/
def setBits (v : Word) (lo n : Nat) (x : Word) : Word :=
  let m : Word := (BitVec.ofNat 64 (2 ^ n - 1)) <<< lo
  (v &&& ~~~m) ||| ((x <<< lo) &&& m)

/-- The trap's target (privileged specification): BASE, and under vectored mode BASE + 4 × cause for an interrupt. -/
def trapTarget (tvec : Word) (intr : Bool) (cause : Nat) : Word :=
  let base := tvec &&& ~~~(3 : Word)
  if intr && tvec.extractLsb' 0 2 == 1#2 then base + BitVec.ofNat 64 (4 * cause) else base

/-- scause and mcause: the interrupt bit and the code. -/
def causeWord (intr : Bool) (cause : Nat) : Word :=
  (if intr then 0x8000000000000000#64 else 0) ||| BitVec.ofNat 64 cause

/-- A trap taken in S mode: sepc, scause and stval are written, SPIE takes SIE, SIE is cleared, SPP holds the mode the
trap came from, and the pc goes to stvec. -/
def Gen.trapS (g : Gen) (intr : Bool) (cause : Nat) (tval : Word) : Gen :=
  let st := g.csrRd 0x300
  let sie := (st >>> 1) &&& 1
  let spp : Word := if g.mode = 0 then 0 else 1
  let st := setBits (setBits (setBits st 5 1 sie) 1 1 0) 8 1 spp
  let g := (((g.csrWr 0x300 st).csrWr 0x141 g.pc).csrWr 0x142 (causeWord intr cause)).csrWr 0x143 tval
  { g with mode := 1, pc := trapTarget (g.csrRd 0x105) intr cause, wait := none }

/-- A trap taken in M mode: mepc, mcause, mtval, MPIE, MIE, MPP, and the pc goes to mtvec. -/
def Gen.trapM (g : Gen) (intr : Bool) (cause : Nat) (tval : Word) : Gen :=
  let st := g.csrRd 0x300
  let mie := (st >>> 3) &&& 1
  let st := setBits (setBits (setBits st 7 1 mie) 3 1 0) 11 2 (zext g.mode)
  let g := (((g.csrWr 0x300 st).csrWr 0x341 g.pc).csrWr 0x342 (causeWord intr cause)).csrWr 0x343 tval
  { g with mode := 3, pc := trapTarget (g.csrRd 0x305) intr cause, wait := none }

/-- Takes an exception of the given cause (R143): one raised in U or S mode whose cause medeleg delegates goes to
S mode, any other to M mode. One that M-mode firmware raises, a breakpoint and its own ECALL (cause 11) apart, is a
fault of the firmware, for which the yard kills the context (R393; log 67). -/
def Gen.trap (g : Gen) (cause : Nat) (tval : Word) : Gen :=
  if g.mode != 3 && (g.csrRd 0x302).getLsbD cause then g.trapS false cause tval
  else { g.trapM false cause tval with mfault := g.mfault || (g.mode == 3 && cause != cBreak && cause != 11) }

/-- Raises a generator fault in a bay. Nothing else of the bay changes (R141, R142). -/
def Bay.fault (b : Bay) (cause : Nat) (tval : Word) : Bay := b.modGen fun g => g.trap cause tval

/-- SRET (privileged specification): the mode is SPP, SIE takes SPIE, SPIE := 1, SPP := U, the pc is sepc. -/
def Gen.sret (g : Gen) : Gen :=
  let st := g.csrRd 0x300
  let spp : BitVec 2 := if st.getLsbD 8 then 1 else 0
  let st := setBits (setBits (setBits (setBits st 1 1 ((st >>> 5) &&& 1)) 5 1 1) 8 1 0) 17 1 0
  { g.csrWr 0x300 st with mode := spp, pc := g.csrRd 0x141 &&& ~~~(3 : Word) }

/-- MRET (privileged specification): the mode is MPP, MIE takes MPIE, MPIE := 1, MPP := U, MPRV is cleared when the new
mode is not M, the pc is mepc. -/
def Gen.mret (g : Gen) : Gen :=
  let st := g.csrRd 0x300
  let mpp := st.extractLsb' 11 2
  let st1 := setBits (setBits (setBits st 3 1 ((st >>> 7) &&& 1)) 7 1 1) 11 2 0
  let st2 := if mpp = 3 then st1 else setBits st1 17 1 0
  { g.csrWr 0x300 st2 with mode := mpp, pc := g.csrRd 0x341 &&& ~~~(3 : Word) }

/-! ### Where bytes live (R42, R165, R166, R183) -/

/-- The address of a byte of home memory: package, context, buffer, offset. -/
def memKey (pkg ctx buf off : Nat) : Nat := ((pkg * 64 + ctx) * 2 ^ 24 + buf) * 2 ^ 48 + off % 2 ^ 48

/-- A live buffer of a context (R165). -/
def State.buf? (s : State) (c : CtxNo) (b : BufId) : Option Buf := s.yard.bufs.find? (c.toNat * 2 ^ 24 + b.toNat)
/-- Sets a buffer. -/
def State.setBuf (s : State) (c : CtxNo) (b : BufId) (v : Buf) : State :=
  s.modYard fun y => { y with bufs := y.bufs.put (c.toNat * 2 ^ 24 + b.toNat) v }

/-- Where the bytes of a buffer stand. -/
inductive Home where
  | table
  | host (bus : Nat)
  | mem (base : Nat)
deriving DecidableEq, Repr

/-- The home of a buffer: the discovery table, host memory, or home memory under the name of the package and context
that created it. -/
def State.home (s : State) (c : CtxNo) (b : BufId) : Home :=
  if b = 0xFFFFFF then .table
  else match s.buf? c b with
    | some { host := some bus, .. } => .host bus.toNat
    | some { imp := some (p, pc, pb), .. } => if p = s.die.pkg ∧ pb = 0xFFFFFF then .table else .mem (memKey p.toNat pc.toNat pb.toNat 0)
    | _ => .mem (memKey s.die.pkg.toNat c.toNat b.toNat 0)

/-- Whether the buffer's home lies in this package (R226). -/
def State.homeHere (s : State) (c : CtxNo) (b : BufId) : Bool :=
  match s.buf? c b with
  | some { imp := some (p, _, _), .. } => p == s.die.pkg
  | _ => true
/-- Whether the buffer lives in host memory (R166). -/
def State.isHost (s : State) (c : CtxNo) (b : BufId) : Bool :=
  match s.home c b with
  | .host _ => true
  | .table => false
  | .mem _ => false
/-- Whether a request to the buffer's home fails: no path reaches it, or the request is lost with a link that goes down
(R407). -/
def State.unreachable (s : State) (c : CtxNo) (b : BufId) : Bool :=
  match s.buf? c b with
  | some { imp := some (p, _, _), .. } => s.remote.contains p || (s.losing && p != s.die.pkg)
  | _ => false

/-- What a byte of home memory reads as that nothing has written since its buffer was created (R174, R186; log 6). -/
def Buf.unwritten (f : Buf) (a : Nat) : Byte :=
  match f.seed with
  | none => 0
  | some n => Config.freshByte n a

/-- One byte at its home. -/
def State.homeByte (s : State) (c : CtxNo) (b : BufId) (off : Nat) : Byte :=
  match s.home c b with
  | .table => s.disc.getD off 0
  | .host bus => Mem.read s.host (bus + off)
  | .mem base => (s.mem.find? (base + off)).getD (((s.buf? c b).getD {}).unwritten (base + off))
/-- n bytes at their home. -/
def State.homeBytes (s : State) (c : CtxNo) (b : BufId) (off n : Nat) : List Byte :=
  (List.range n).map fun k => s.homeByte c b (off + k)
/-- Bytes written at their home; the discovery table takes no write (R17). -/
def State.homeStore (s : State) (c : CtxNo) (b : BufId) (off : Nat) (bs : List Byte) : State :=
  match s.home c b with
  | .table => s
  | .host bus => { s with host := Mem.writeN s.host (bus + off) bs }
  | .mem base => { s with mem := Tab.putN s.mem (base + off) bs }

/-! ### Lofts (R166, R183, R184, R402) -/

/-- The loft that is home to an offset (R166). -/
def Buf.loftOf (b : Buf) (off : Nat) : Nat :=
  if b.pin = 1 then b.loft.toNat else (b.loft.toNat + off / 4096) % 8

/-- Bytes of a page of a buffer. -/
def Buf.pageBytes (f : Buf) : Nat := if f.pg2m = 1 then 2 ^ 21 else 2 ^ 16

/-- The local offset, at its home loft, of an offset of a buffer (R183). -/
def Buf.localOff (f : Buf) (off : Nat) : Nat := if f.pin = 1 then off else off / 2 ^ 15 * 2 ^ 12 + off % 2 ^ 12

/-- The page of an offset in the buffer's page table at the home loft (R183). -/
def Buf.pageOf (f : Buf) (off : Nat) : Nat := f.localOff off / f.pageBytes

/-- The tag of a page: context, buffer id, page (R184). -/
def pageTag (c : CtxNo) (b : BufId) (page : Nat) : Nat := (c.toNat * 2 ^ 24 + b.toNat) * 2 ^ 33 + page

/-- The tag of a line: context, buffer and line of the offset (R184). -/
def lineKey (c : CtxNo) (b : BufId) (off : Nat) : Nat := memKey 0 c.toNat b.toNat off / 64

namespace Loft
/-- Adds n to counter k, unless the access's class is 15 (R402). -/
def count (d : Loft) (cls k n : Nat) : Loft :=
  if cls = 15 then d else { d with ctr := Tab.mod 0 d.ctr k fun v => v + BitVec.ofNat 64 n }
/-- A request's translation: a page that the translation cache does not hold is a miss and enters it (R184, R402). -/
def translate (d : Loft) (cls page : Nat) : Loft :=
  if (d.tlb.find? page).isSome then d
  else { d.count cls 3 1 with tlb := Tab.putIn Config.tlbEntries d.tlb page () }
/-- A request's line: one that the loft cache does not hold is a miss and enters it (R29, R402). -/
def fill (d : Loft) (cls line : Nat) : Loft :=
  if (d.lines.find? line).isSome then d
  else { d.count cls 4 1 with lines := Tab.putIn Config.loftLines d.lines line () }
/-- A request for one line. -/
def serve (d : Loft) (cls k n page line : Nat) : Loft := ((d.translate cls page).fill cls line).count cls k n
end Loft

/-- The parts of n bytes from an offset that lie in one line each, as offset and length. -/
def linePieces (off n : Nat) : List (Nat × Nat) :=
  (List.range (if n = 0 then 0 else (off % 64 + n + 63) / 64)).map fun i =>
    let lo := max off ((off / 64 + i) * 64)
    (lo, min (off + n) ((off / 64 + i + 1) * 64) - lo)

/-- The context and id under which this package's lofts hold a buffer: the creator's for an imported one, none where
no loft of the package is its home. -/
def State.loftName (s : State) (c : CtxNo) (b : BufId) (f : Buf) : Option (CtxNo × BufId) :=
  if f.host.isSome ∨ b = 0xFFFFFF then none
  else match f.imp with
  | none => some (c, b)
  | some (p, pc, pb) => if p = s.die.pkg ∧ pb ≠ 0xFFFFFF then some (pc, pb) else none

/-- The loft that serves an access of n bytes, or n operations, translates it, finds its lines and counts it in counter
k (R183, R184, R402). -/
def State.countLoft (s : State) (c : CtxNo) (b : BufId) (off cls k n : Nat) : State :=
  match s.buf? c b with
  | none => s
  | some f =>
    match s.loftName c b f with
    | none => s
    | some (pc, pb) =>
      { s with lofts := (linePieces off n).foldl (fun l p =>
          Tab.mod {} l (f.loftOf p.1) fun d =>
            d.serve cls k p.2 (pageTag pc pb (f.pageOf p.1)) (lineKey pc pb p.1)) s.lofts }

/-! ### The shed cache (R191, R192, R200, R201) -/

/-- The context, buffer and first offset that a line's tag names. -/
def keyCtx (key : Nat) : CtxNo := BitVec.ofNat 6 (key / 2 ^ 66)
def keyBuf (key : Nat) : BufId := BitVec.ofNat 24 (key / 2 ^ 42)
def keyOff (key : Nat) : Nat := key % 2 ^ 42 * 64

/-- The mask of one class. -/
def classBit (cls : Nat) : BitVec 16 := BitVec.ofNat 16 (2 ^ cls)

/-- The clean bytes of a line taken anew, the dirty ones kept. -/
def Line.refresh (l : Line) (fresh : List Byte) : Line :=
  { l with data := (List.range 64).map fun k => if l.dirty.getLsbD k then l.data.getD k 0 else fresh.getD k 0 }

/-- Makes a line present for a class: a line that no access of the class has touched takes its clean bytes from the
home again, so that no class reads what another class let grow stale (R199, R200; log 15). -/
def State.touch (s : State) (shed : BitVec 4) (cls : Nat) (c : CtxNo) (b : BufId) (off : Nat) : State :=
  let key := lineKey c b off
  let base := off / 64 * 64
  match (s.shed shed).cache.find? key with
  | some l =>
    if l.mask.getLsbD cls then s
    else
      let l' := { l.refresh (s.homeBytes c b base 64) with mask := l.mask ||| classBit cls }
      (s.countLoft c b base cls 0 64).modShed shed fun d => { d with cache := d.cache.put key l' }
  | none =>
    let l' : Line := { data := s.homeBytes c b base 64, dirty := 0, mask := classBit cls }
    (s.countLoft c b base cls 0 64).modShed shed fun d => { d with cache := d.cache.put key l' }

/-- The byte that a shed's agents see: the cached one, or the one at the home. -/
def State.peek (s : State) (shed : BitVec 4) (c : CtxNo) (b : BufId) (off : Nat) : Byte :=
  match (s.shed shed).cache.find? (lineKey c b off) with
  | some l => l.data.getD (off % 64) 0
  | none => s.homeByte c b off
/-- n bytes as a shed's agents see them. -/
def State.peekN (s : State) (shed : BitVec 4) (c : CtxNo) (b : BufId) (off n : Nat) : List Byte :=
  (List.range n).map fun k => s.peek shed c b (off + k)

/-- Makes every line of a range present for a class. -/
def State.touchN (s : State) (shed : BitVec 4) (cls : Nat) (c : CtxNo) (b : BufId) (off : Nat) : Nat → State
  | 0 => s
  | n + 1 => (s.touchN shed cls c b off n).touch shed cls c b (off + n)

/-- A read of n bytes in a class by an agent of a shed. -/
def State.load (s : State) (shed : BitVec 4) (cls : Nat) (c : CtxNo) (b : BufId) (off n : Nat) : List Byte × State :=
  let s' := s.touchN shed cls c b off n
  (s'.peekN shed c b off n, s')

/-- One byte written into a line that is present. -/
def State.dirtyByte (s : State) (shed : BitVec 4) (c : CtxNo) (b : BufId) (off : Nat) (v : Byte) (clean : Bool) :
    State :=
  let key := lineKey c b off
  match (s.shed shed).cache.find? key with
  | some l =>
    let k := off % 64
    let l' := { l with data := l.data.set k v,
                       dirty := if clean then l.dirty else l.dirty ||| BitVec.ofNat 64 (2 ^ k) }
    s.modShed shed fun d => { d with cache := d.cache.put key l' }
  | none => s

/-- A write of bytes in a class by an agent of a shed (R191). Lines of a host-resident buffer stay clean: the write
passes through to host memory (R201). -/
def State.store (s : State) (shed : BitVec 4) (cls : Nat) (c : CtxNo) (b : BufId) (off : Nat) : List Byte → State
  | [] => s
  | v :: vs =>
    let h := s.isHost c b
    let s1 := (s.touch shed cls c b off).dirtyByte shed c b off v h
    let s2 := if h then s1.homeStore c b off [v] else s1
    s2.store shed cls c b (off + 1) vs

/-- Writes the dirty bytes of a line to the home. -/
def State.flushBytes (s : State) (c : CtxNo) (b : BufId) (base : Nat) (l : Line) : Nat → State
  | 0 => s
  | k + 1 =>
    let s1 := s.flushBytes c b base l k
    if l.dirty.getLsbD k then s1.homeStore c b (base + k) [l.data.getD k 0] else s1

/-- The first class of a mask, for the traffic counters: 15 only when no other class touched the line. -/
def maskClass (m : BitVec 16) : Nat := if m &&& 0x7FFF = 0 then 15 else 0

/-- Writes a line back and leaves it clean. A write-back to a home that no path reaches is not performed: its bytes are
lost, and no fault is raised, since no access of a generator, word or queue made the request (R407; DESIGN CHOICE, log 72). -/
def State.writeBack (s : State) (shed : BitVec 4) (key : Nat) : State :=
  match (s.shed shed).cache.find? key with
  | some l =>
    if l.dirty = 0 then s
    else
      let c := keyCtx key
      let b := keyBuf key
      let n := ((List.range 64).filter fun k => l.dirty.getLsbD k).length
      let s1 := if s.unreachable c b then s
        else (s.flushBytes c b (keyOff key) l 64).countLoft c b (keyOff key) (maskClass l.mask) 1 n
      s1.modShed shed fun d => { d with cache := d.cache.put key { l with dirty := 0 } }
  | none => s

/-- Writes a line back and drops it. -/
def State.dropLine (s : State) (shed : BitVec 4) (key : Nat) : State :=
  (s.writeBack shed key).modShed shed fun d => { d with cache := d.cache.erase key }

/-- Writes back the listed lines whose mask meets m. -/
def State.writeBackAll (s : State) (shed : BitVec 4) (m : BitVec 16) : List (Nat × Line) → State
  | [] => s
  | (k, l) :: t => (if l.mask &&& m = 0 then s else s.writeBack shed k).writeBackAll shed m t

/-- The lines of a shed cache after an acquire over m (R197, R200): a clean line that meets m goes; a dirty one stays,
and its clean bytes are taken anew (log 15). -/
def State.acquireLines (s : State) (m : BitVec 16) : Tab Line → Tab Line
  | [] => []
  | (k, l) :: t =>
    if l.mask &&& m = 0 then (k, l) :: s.acquireLines m t
    else if l.dirty = 0 then s.acquireLines m t
    else (k, l.refresh (s.homeBytes (keyCtx k) (keyBuf k) (keyOff k) 64)) :: s.acquireLines m t

/-- Scopes wider than SHED: PACKAGE, DOMAIN and SYSTEM (R48, R196). -/
def wide (scope : Nat) : Bool := 2 ≤ scope

/-- The first line of a shed cache that holds more lines than it has (R29), if any does. -/
def State.overfull (s : State) : Option (BitVec 4 × Nat) :=
  match List.find? (fun (e : Nat × Shed) => decide (Config.shedLines < e.2.cache.length)) s.sheds with
  | some (n, d) => d.cache.head?.map fun l => (BitVec.ofNat 4 n, l.1)
  | none => none

/-- Classes c0 to c14. -/
def allClasses : BitVec 16 := 0x7FFF

/-- An acquire over m at a scope by an agent of a shed (R197). -/
def State.acquire (s : State) (shed : BitVec 4) (m : BitVec 16) (scope : Nat) : State :=
  if wide scope then s.modShed shed fun d => { d with cache := s.acquireLines m d.cache } else s

/-! ### Records that the yard and the bays write -/

/-- An event record of 32 B in a context's event ring (R397). -/
def State.event (s : State) (c : CtxNo) (record : Nat) : State :=
  let x := s.ctx c
  let size := 2 ^ x.evlg.toNat
  if size ≤ (x.evhead - x.evtail).toNat then s.modCtx c fun y => { y with evdrop := y.evdrop + 1 }
  else
    let s1 := s.homeStore c 0xFFFFFC (x.evhead.toNat % size * 32) (leBytes record 32)
    (s1.modCtx c fun y => { y with evhead := y.evhead + 1 }).interrupt x.func (66 + c.toNat)

/-- A trace record of 32 B in a bay's region, appended in class 15, or counted as dropped (R400). -/
def State.trace (s : State) (b : BayNo) (c : CtxNo) (record : Nat) : State :=
  let x := s.ctx c
  if x.tren = 0 then s
  else
    let size := 2 ^ x.trlg.toNat * 1024
    let base := b.toNat * size
    let h := s.load (shedOf b) 15 c 0xFFFFFB base 16
    let next := leNat (h.1.take 8)
    if size < next + 32 then
      h.2.store (shedOf b) 15 c 0xFFFFFB (base + 8) (leBytes (leNat (h.1.drop 8) + 1) 8)
    else
      (h.2.store (shedOf b) 15 c 0xFFFFFB (base + next) (leBytes record 32)).store (shedOf b) 15 c 0xFFFFFB base
        (leBytes (next + 32) 8)

/-! ### Outcomes -/

/-- The result type of a step and of every meaning. -/
abbrev Out := Host.Outcome State Fault Refusal

/-- Applies f to the current bay. -/
def onCur (s : State) (f : Bay → Bay) : Out := .next (s.modBay s.cur f)

/-- Whether a generator's data cache holds a line: an entry stands as long as it is what the shed cache holds
(R110, R192). -/
def State.dataLine? (s : State) (b : BayNo) (key : Nat) : Option (List Byte) :=
  match (s.bay b).dlines.find? key, (s.shed (shedOf b)).cache.find? key with
  | some bs, some l => if bs = l.data then some bs else none
  | _, _ => none

/-- A data cache takes a line that its shed cache holds. -/
def State.dataFill (s : State) (b : BayNo) (key : Nat) : State :=
  match (s.shed (shedOf b)).cache.find? key with
  | some l => s.modBay b fun y => { y with dlines := Tab.putIn Config.icacheLines y.dlines key l.data }
  | none => s

/-- An event of a bay: it changes that bay's package, or stops where no such bay is populated (R11). -/
def onBay (s : State) (b : BayNo) (f : State → State) : Out := if s.populated b then .next (f s) else .fault .absentBay

end Sys2Proof.Machine
end

