-- ==== Sys2Proof/Machine/Atomics.lean ====
section
/-! DEFINITION. What the home lofts' atomic units perform: AMOs, counter write-backs, reductions, histogram increments
and sidecar merges, and the release that covers them (R103, R107, R138, R195, R196, R225, R322). -/
namespace Sys2Proof.Machine

/-- One indivisible step on n bytes at their home: the old value, and the state with f of it stored (R225). -/
def State.atomic (s : State) (c : CtxNo) (b : BufId) (off n : Nat) (f : Nat → Nat) : Nat × State :=
  let old := leNat (s.homeBytes c b off n)
  (old, s.homeStore c b off (leBytes (f old) n))

/-- Elements packed by R80: the w bits at bit position p of a buffer, at the home. -/
def State.homeBits (s : State) (c : CtxNo) (b : BufId) (p w : Nat) : Nat :=
  leNat (s.homeBytes c b (p / 8) ((w + 7) / 8)) / 2 ^ (p % 8) % 2 ^ w

/-- Puts w bits at bit position p into a byte string. -/
def putBits (old p w v : Nat) : Nat := old - old / 2 ^ p % 2 ^ w * 2 ^ p + v % 2 ^ w * 2 ^ p

/-- Stores w bits at bit position p of a buffer at the home. -/
def State.setHomeBits (s : State) (c : CtxNo) (b : BufId) (p w v : Nat) : State :=
  let n := (w + 7) / 8
  s.homeStore c b (p / 8) (leBytes (putBits (leNat (s.homeBytes c b (p / 8) n)) (p % 8) w v) n)

/-! ### Watchpoints on engine accesses (R401) -/

/-- Whether a watchpoint matches an access of n bytes of one kind. -/
def wpHits (w : BitVec 256) (c : CtxNo) (b : BufId) (off n : Nat) (rd wr : Bool) : Bool :=
  let base := (w.extractLsb' 0 48).toNat
  let len := (w.extractLsb' 128 48).toNat
  w.getLsbD 255 && w.extractLsb' 240 6 == c && w.extractLsb' 216 24 == b &&
    ((rd && w.getLsbD 252) || (wr && w.getLsbD 253)) && len != 0 && decide (off < base + len) && decide (base < off + n)

/-- Whether an engine word's access meets a watchpoint with ENG = 1. -/
def State.watchEng (s : State) (c : CtxNo) (b : BufId) (off n cls : Nat) (rd wr : Bool) : Bool :=
  cls != 15 && s.yard.dbg.wp.any fun w => w.getLsbD 251 && wpHits w c b off n rd wr

/-- After an engine access that meets a watchpoint, the bay makes a debug stop (R401). -/
def State.afterEng (s : State) (bn : BayNo) (c : CtxNo) (b : BufId) (off n cls : Nat) (rd wr : Bool) : State :=
  if s.watchEng c b off n cls rd wr then s.modBay bn fun y => { y with debugStop := true } else s

/-! ### Reductions, increments, merges -/

/-- What the atomic unit stores for an arriving value q on the stored element m (R322). -/
def reduce (f : Fmt) (op : Nat) (m q : Nat) : Res :=
  let a := decodeVal f m
  let b := decodeVal f q
  match op with
  | 0 =>
    if fmtIsFloat f then ((({} : Sum).add a).add b).finish f 0 0
    else satInt f (intOf f m + intOf f q)
  | 1 => pickRes f false a b m q
  | _ => pickRes f true a b m q

/-- Whether two copy words are of one class of one copy queue, whose accesses keep their order (R304). -/
def Sender.sameQueue (r x : Sender) : Bool := r.bay == x.bay && r.q == x.q && r.cls == x.cls

/-- An AMO by an agent of a shed: its line is written back and dropped there, then the operation is performed at the
home (R200, R225). -/
def State.amo (s : State) (shed : BitVec 4) (cls : Nat) (c : CtxNo) (b : BufId) (off n : Nat) (f : Nat → Nat) :
    Nat × State :=
  (((s.dropLine shed (lineKey c b off)).countLoft c b off cls 2 1).atomic c b off n f)

/-- The lines of an element leave the shed's cache, written back, so that the home takes an earlier write of the queue
first and a later read finds the result there (R195, R304). -/
def State.redLines (s : State) (r : Red) : State :=
  let key (p : Nat) : Nat := lineKey r.ctx r.buf (p / 8)
  let s1 := s.dropLine (shedOf r.src.bay) (key r.bit)
  if key (r.bit + fmtBits r.fmt - 1) = key r.bit then s1
  else s1.dropLine (shedOf r.src.bay) (key (r.bit + fmtBits r.fmt - 1))

/-- Applies one cp.red value at its home: the element, the flags into the sidecar, the histogram increment on its way
(R102, R322). -/
def State.redOne (s : State) (r : Red) : State :=
  let s := s.redLines r
  let w := fmtBits r.fmt
  let cls := r.src.cls.toNat
  let old := s.homeBits r.ctx r.buf r.bit w
  let x := reduce r.fmt r.op.toNat old r.bits
  let s1 := (s.setHomeBits r.ctx r.buf r.bit w x.bits).countLoft r.ctx r.buf (r.bit / 8) cls 2 1
  let s2 := match r.side with
    | some (sb, so) =>
      ((s1.dropLine (shedOf r.src.bay) (lineKey r.ctx sb so)).atomic r.ctx sb so 4 fun v => v ||| x.flags.toNat).2.afterEng
        r.src.bay r.ctx sb so 4 cls true true
    | none => s1
  match r.hist with
  | some (hb, ho, hbase) =>
    let bin := histBin r.fmt hbase.toInt x.bits
    ({ s2 with hists := s2.hists ++ [{ ctx := r.ctx, buf := hb, off := ho + 4 * bin, src := r.src }] } :
      State).afterEng r.src.bay r.ctx hb (ho + 4 * bin) 4 cls true true
  | none => s2

/-- One histogram increment: a 32-bit counter that saturates (R101, R103). Its line leaves the shed's cache, so that the
bay's later reads find the increment (R188). -/
def State.histOne (s : State) (h : Hist) : State :=
  (s.amo (shedOf h.src.bay) h.src.cls.toNat h.ctx h.buf h.off 4 fun v => if v < 2 ^ 32 - 1 then v + 1 else v).2

/-- One sidecar merge (R107). -/
def State.sideOne (s : State) (d : Side) : State :=
  (s.amo (shedOf d.src.bay) d.src.cls.toNat d.ctx d.buf d.off 4 fun v =>
    (mergeSidecar (BitVec.ofNat 32 v) d.status).toNat).2

/-- A release over m at a scope by an agent of a shed (R196). Loads and stores are performed at the shed cache as they
are made, and the reductions, increments and merges of a completed copy at their homes (R188); one wider than SHED writes
back the dirty lines that meet m. -/
def State.release (s : State) (shed : BitVec 4) (m : BitVec 16) (scope : Nat) : State :=
  if wide scope then s.writeBackAll shed m (s.shed shed).cache else s

/-- A release and then an acquire (R206). -/
def State.fence (s : State) (shed : BitVec 4) (m : BitVec 16) (scope : Nat) : State :=
  (s.release shed m scope).acquire shed m scope

/-- A wide release or fence of a bay's generator is complete: the words accepted from now on come behind it (R203). -/
def State.forkAt (s : State) (b : BayNo) (scope : Nat) : State :=
  if wide scope then s.modBay b fun y => { y with forks := y.forks + 1 } else s

/-- Before a word's first access: what happened before the releases that precede its acceptance is seen, whatever the
class, so the shed's clean bytes are taken anew (R203). -/
def State.joinFork (s : State) (b : BayNo) : State :=
  (s.acquire (shedOf b) 0xFFFF 2).modBay b fun y => { y with forked := y.forks }

/-! ### AMOs (R224, R229) -/

/-- fkey (R229): FP32 patterns in total order. -/
def fkey (h : Nat) : Nat := if 2 ^ 31 ≤ h then 2 ^ 32 - 1 - h else h + 2 ^ 31
/-- pkkey (R229). -/
def pkkey (v : Nat) : Nat := fkey (v / 2 ^ 32 % 2 ^ 32) * 2 ^ 32 + v % 2 ^ 32

/-- The value an AMO stores (A extension, Zacas): w bits; rd holds the compare value of a CAS. -/
def amoValue (op : AmoOp) (w : Nat) (old src cmp : Nat) : Nat :=
  let a := old % 2 ^ w
  let b := src % 2 ^ w
  match op with
  | .swap => b
  | .add => (a + b) % 2 ^ w
  | .xor => a ^^^ b
  | .and => a &&& b
  | .or => a ||| b
  | .min => if sint w a < sint w b then a else b
  | .max => if sint w a < sint w b then b else a
  | .minu => if a < b then a else b
  | .maxu => if a < b then b else a
  | .cas => if a = cmp % 2 ^ w then b else a

/-! ### The counter cache (R138) -/

/-- Writes one delta back for a bay of a shed: a 64-bit add at the counter's home, in class 15. The counter's line leaves the
shed's cache first, written back, so that an earlier store of the generator is counted on and a later load finds the sum
(R139, R193, R195). A delta whose home no path reaches is lost (R407; DESIGN CHOICE, log 72). -/
def State.counterOne (s : State) (shed : BitVec 4) (c : CtxNo) (buf : BufId) (off : Nat) (delta : W32) : State :=
  if s.unreachable c buf then s
  else ((s.dropLine shed (lineKey c buf off)).atomic c buf off 8 fun v => v + delta.toNat).2

/-- Writes back every delta of a bay's counter cache. -/
def State.flushCounters (s : State) (b : BayNo) : State :=
  ((s.bay b).counters.foldl (fun s e => s.counterOne (shedOf b) (s.bay b).ctx e.1 e.2.1 e.2.2) s).modBay b
    fun y => { y with counters := [] }

end Sys2Proof.Machine
end

