-- ==== Sys2Proof/Machine/Operands.lean ====
section
/-! DEFINITION. Operand forms: capability-relative addresses and their checks (R42 to R44, R109), barrier and ring
operands (R52, R210), and the fields that tile and capability instructions read from registers. -/
namespace Sys2Proof.Machine

/-! ### Capability-relative addresses (R42 to R44, R109) -/

/-- What a generator access does (R44 check 3). -/
inductive Access where
  | load | store | amo
deriving DecidableEq, Repr

/-- Where a checked generator access goes: a buffer's bytes, or the bay's firmware store. -/
inductive Loc where
  | buf (b : BufId) (off : Nat)
  | fw (off : Nat)
deriving DecidableEq, Repr

/-- SLOT of an address. -/
def addrSlot (a : Word) : Nat := a.toNat / 2 ^ 58
/-- Bits [57:48] of an address. -/
def addrMid (a : Word) : Nat := a.toNat / 2 ^ 48 % 2 ^ 10
/-- OFF of an address. -/
def addrOff (a : Word) : Nat := a.toNat % 2 ^ 48

/-- The runtime area's buffer id (R395). -/
def runtimeBuf : BufId := 0xFFFFF9

/-- The mode whose rights a data access has (log 16): M mode under mstatus.MPRV takes MPP's. -/
def Gen.dataMode (g : Gen) : BitVec 2 :=
  if g.mode = 3 ∧ (g.csrRd 0x300).getLsbD 17 then (g.csrRd 0x300).extractLsb' 11 2 else g.mode

/-- The rights of the capability in a slot, from the lookaside when it holds them (R171). -/
def Bay.lookRights (b : Bay) (slot : Nat) (c : Cap) : BitVec 4 :=
  ((b.look.find? (slot * 2 ^ 24 + c.buf.toNat)).map Look.rights).getD c.rights

/-- What SLOT names for a generator in its mode (R109): the bay's firmware store, or a buffer with rights. -/
def Bay.slotCap (b : Bay) (slot : Nat) : Option (Option BufId × BitVec 4) :=
  if slot = 63 then
    (if b.gen.dataMode = 0 then some (some b.code, 1)
     else if b.gen.dataMode = 1 then some (some runtimeBuf, 3)
     else some (none, 3))
  else (b.caps.find? slot).map fun c => (some c.buf, b.lookRights slot c)

/-- The rights an access needs (R44 check 3). -/
def Access.needs : Access → BitVec 4
  | .load => 1
  | .store => 2
  | .amo => 3
/-- The access-fault cause of an access. -/
def Access.accessCause : Access → Nat
  | .load => cLoadAccess
  | .store | .amo => cStoreAccess
/-- The misaligned cause of an access. -/
def Access.alignCause : Access → Nat
  | .load => cLoadAlign
  | .store | .amo => cStoreAlign

/-- The size of a buffer, as R44 check 4 reads it. -/
def State.bufSize (s : State) (c : CtxNo) (b : BufId) : Nat :=
  match s.buf? c b with
  | some f => f.size
  | none => 0

/-- The size that a bay checks a slot's buffer against: the lookaside's when it holds it (R171). -/
def State.lookSize (s : State) (y : Bay) (slot : Nat) (b : BufId) : Nat :=
  ((y.look.find? (slot * 2 ^ 24 + b.toNat)).map Look.size).getD (s.bufSize y.ctx b)

/-- The checks of R44 for an access of n bytes by the generator of bay b, in their order: the fault's cause, or where
the bytes are. An AMO on the firmware store, for which R109 names no fault, takes cause 7 (DESIGN CHOICE, log 64). -/
def State.checkAddr (s : State) (b : BayNo) (acc : Access) (a : Word) (n : Nat) : Except Nat Loc :=
  let y := s.bay b
  if addrMid a ≠ 0 then .error acc.accessCause
  else match y.slotCap (addrSlot a) with
  | none => .error cCapability
  | some (target, rights) =>
    if rights &&& acc.needs ≠ acc.needs then .error cCapability
    else
      let size := match target with
        | some bf => s.lookSize y (addrSlot a) bf
        | none => Config.firmwareBytes
      if size < addrOff a + n then .error cBounds
      else if addrOff a % n ≠ 0 then .error acc.alignCause
      else match target with
        | some bf =>
          if s.unreachable y.ctx bf then .error acc.accessCause
          else if acc = .amo ∧ s.isHost y.ctx bf then .error cStoreAccess
          else .ok (.buf bf (addrOff a))
        | none => if acc = .amo then .error cStoreAccess else .ok (.fw (addrOff a))

/-! ### Watchpoints and breakpoints (R398, R401) -/

/-- The first watchpoint that a generator access in a class other than 15 meets: its ACT bit. -/
def State.watchGen (s : State) (c : CtxNo) (b : BufId) (off n cls : Nat) (acc : Access) : Option Bool :=
  if cls = 15 then none
  else
    let rd := acc == .load || acc == .amo
    let wr := acc == .store || acc == .amo
    (s.yard.dbg.wp.find? fun w => wpHits w c b off n rd wr).map fun w => w.getLsbD 254

/-! ### Barriers and rings (R52, R208, R210, R217) -/

/-- The barrier that operand n names for a bay: its own, or its shed's. -/
def State.barrier (s : State) (b : BayNo) (n : Nat) : Barrier :=
  if n < 64 then Tab.get {} (s.bay b).bars n else Tab.get {} (s.shed (shedOf b)).bars (n - 64)
/-- Replaces a barrier. -/
def State.setBarrier (s : State) (b : BayNo) (n : Nat) (v : Barrier) : State :=
  if n < 64 then s.modBay b fun y => { y with bars := y.bars.put n v }
  else s.modShed (shedOf b) fun d => { d with bars := d.bars.put (n - 64) v }
/-- Whether an operand names a barrier that an agent of bay b may use (R52, R210). -/
def State.barrierOk (s : State) (b : BayNo) (n : Nat) : Bool :=
  decide (n < 64) || (decide (n < 96) && (s.barrier b n).owner == some (s.bay b).ctx)
/-- The scope of a barrier: BAY or SHED (R213). -/
def barScope (n : Nat) : Nat := if n < 64 then 0 else 1

/-- The wait count of an agent: 0 the generator, 1 + q queue q (R208). -/
def Bay.wcntOf (b : Bay) (agent n : Nat) : BitVec 16 :=
  if agent = 0 then Tab.get 0 b.wcnt n else Tab.get 0 (b.queue (agent - 1)).wcnt n
/-- Sets a wait count. -/
def Bay.setWcnt (b : Bay) (agent n : Nat) (v : BitVec 16) : Bay :=
  if agent = 0 then { b with wcnt := b.wcnt.put n v }
  else b.modQueue (agent - 1) fun q => { q with wcnt := q.wcnt.put n v }

/-- arrive(b, A) (R209). -/
def Barrier.arrive (v : Barrier) (bn : BayNo) (agent : Nat) : Barrier :=
  let v := { v with lastBay := bn, lastAg := BitVec.ofNat 3 agent }
  if v.arr + 1 = v.exp then { v with gen := v.gen + 1, arr := 0 } else { v with arr := v.arr + 1 }
/-- waitok(b, A) (R209). -/
def waitOk (v : Barrier) (wcnt : BitVec 16) : Bool :=
  let d := (v.gen - wcnt).toNat
  decide (1 ≤ d) && decide (d ≤ 2 ^ 15 - 1)

/-- A ring of a bay's shed. -/
def State.ring (s : State) (b : BayNo) (n : Nat) : Ring := Tab.get {} (s.shed (shedOf b)).rings n
/-- Replaces a ring. -/
def State.setRing (s : State) (b : BayNo) (n : Nat) (v : Ring) : State :=
  s.modShed (shedOf b) fun d => { d with rings := d.rings.put n v }

/-! ### Tiles (R147, R148) -/

namespace Tile
def rows (t : Tile) : Nat := t.rows1.toNat + 1
def cols (t : Tile) : Nat := t.cols1.toNat + 1
/-- PITCHL (R147). -/
def pitch (t : Tile) : Nat := (t.cols * fmtBits t.fmt + 511) / 512
/-- Elements of the tile. -/
def size (t : Tile) : Nat := t.rows * t.cols
/-- Lines of the tile (R148). -/
def lines (t : Tile) : Nat := t.rows * t.pitch
/-- An ORIGIN component. -/
def org (t : Tile) (k : Nat) : BitVec 24 := t.origin.getD k 0
end Tile

/-- The byte address at the tile's level, and the bit within it, of element (i, j) (R148, R80). -/
def Tile.bitPos (t : Tile) (i j : Nat) : Nat := (t.base + i * t.pitch) * 512 + j * fmtBits t.fmt

/-- The memory a tile lies in: the bay store or the shed pool. -/
def State.tileMem (s : State) (b : BayNo) (t : Tile) : Mem :=
  if t.level = 0 then (s.bay b).store else (s.shed (shedOf b)).pool
/-- Replaces it. -/
def State.setTileMem (s : State) (b : BayNo) (t : Tile) (m : Mem) : State :=
  if t.level = 0 then s.modBay b fun y => { y with store := m }
  else s.modShed (shedOf b) fun d => { d with pool := m }

/-- w bits at a bit position of a byte memory. -/
def Mem.bitsAt (m : Mem) (p w : Nat) : Nat := leNat (m.readN (p / 8) ((w + 7) / 8)) / 2 ^ (p % 8) % 2 ^ w
/-- Stores w bits at a bit position. -/
def Mem.setBitsAt (m : Mem) (p w v : Nat) : Mem :=
  let n := (w + 7) / 8
  m.writeN (p / 8) (leBytes (putBits (leNat (m.readN (p / 8) n)) (p % 8) w v) n)

/-- The bits of tile element (i, j). -/
def State.tileElem (s : State) (b : BayNo) (t : Tile) (i j : Nat) : Nat :=
  Mem.bitsAt (s.tileMem b t) (t.bitPos i j) (fmtBits t.fmt)
/-- Sets the bits of tile element (i, j). -/
def State.setTileElem (s : State) (b : BayNo) (t : Tile) (i j v : Nat) : State :=
  s.setTileMem b t (Mem.setBitsAt (s.tileMem b t) (t.bitPos i j) (fmtBits t.fmt) v)
/-- The element at a linear position (R271). -/
def State.tileLin (s : State) (b : BayNo) (t : Tile) (l : Nat) : Nat := s.tileElem b t (l / t.cols) (l % t.cols)
/-- Sets the element at a linear position. -/
def State.setTileLin (s : State) (b : BayNo) (t : Tile) (l v : Nat) : State :=
  s.setTileElem b t (l / t.cols) (l % t.cols) v
/-- Applies f to a tile-table entry. -/
def State.modTile (s : State) (b : BayNo) (h : Byte) (f : Tile → Tile) : State :=
  s.modBay b fun y => y.setTile h (f (y.tile h))
/-- Raises flags in a tile's status word (R106). -/
def State.raiseTile (s : State) (b : BayNo) (h : Byte) (fl : Byte) (satc : Nat) : State :=
  s.modTile b h fun t => { t with status := raiseStatus t.status fl satc }

/-- The 24 keyed bits of tile element (row, col) for a word with the given seed and step (R88, R90); d is the
descriptor of the recorded key tensor, none for a tile with KEYV = 0. -/
def keyedTile (t : Tile) (d : Option Desc) (seed step : Word) (row col : Nat) : Nat :=
  match d with
  | none => srkBits seed 0 (row * t.cols + col) step
  | some d =>
    let rank := ((d.getD 2 0).extractLsb' 4 4).toNat
    let dims := (List.range rank).map fun k => ((d.getD (3 + k / 2) 0).extractLsb' (32 * (k % 2)) 32).toNat
    let idx := (List.range rank).map fun k =>
      (t.org k).toInt + (if k = 0 then (col : Int) else if k = 1 then (row : Int) else 0)
    srkBits seed ((d.getD 2 0).extractLsb' 12 16) (linearCoord dims idx 1 0) step

end Sys2Proof.Machine
end

