-- ==== Sys2Proof/Machine/Generator.lean ====
section
/-! DEFINITION. The generator's RV64 base and the Xzg instructions that only touch the core (R37 to R49, R108 to R112,
R130 to R134, R138 to R144, R205, R206, R224 to R230). -/
namespace Sys2Proof.Machine

/-! ### Integer arithmetic (R37) -/

/-- Leading zeros. -/
def clzN {n : Nat} (v : BitVec n) : Nat := if v = 0 then n else n - 1 - Nat.log2 v.toNat
/-- Trailing zeros. -/
def ctzN {n : Nat} (v : BitVec n) : Nat := ((List.range n).find? fun k => v.getLsbD k).getD n
/-- Set bits. -/
def cpopN {n : Nat} (v : BitVec n) : Nat := ((List.range n).filter fun k => v.getLsbD k).length

/-- Signed division as the M extension gives it. -/
def divS {n : Nat} (a b : BitVec n) : BitVec n := if b = 0 then BitVec.allOnes n else a.sdiv b
/-- Unsigned division. -/
def divU {n : Nat} (a b : BitVec n) : BitVec n := if b = 0 then BitVec.allOnes n else a / b
/-- Signed remainder. -/
def remS {n : Nat} (a b : BitVec n) : BitVec n := if b = 0 then a else a.srem b
/-- Unsigned remainder. -/
def remU {n : Nat} (a b : BitVec n) : BitVec n := if b = 0 then a else a % b

/-- A word operation: on the low halves, sign-extended. -/
def wordOp (f : W32 → W32 → W32) (a b : Word) : Word := sext (f (a.setWidth 32) (b.setWidth 32))

/-- Register-register instructions. -/
def aluRR (op : AluRR) (a b : Word) : Word :=
  match op with
  | .add => a + b
  | .sub => a - b
  | .sll => a <<< (b.toNat % 64)
  | .slt => boolW (a.slt b)
  | .sltu => boolW (a.ult b)
  | .xor => a ^^^ b
  | .srl => a >>> (b.toNat % 64)
  | .sra => a.sshiftRight (b.toNat % 64)
  | .or => a ||| b
  | .and => a &&& b
  | .addw => wordOp (· + ·) a b
  | .subw => wordOp (· - ·) a b
  | .sllw => wordOp (fun x y => x <<< (y.toNat % 32)) a b
  | .srlw => wordOp (fun x y => x >>> (y.toNat % 32)) a b
  | .sraw => wordOp (fun x y => x.sshiftRight (y.toNat % 32)) a b
  | .mul => a * b
  | .mulh => BitVec.ofInt 64 (a.toInt * b.toInt / 2 ^ 64)
  | .mulhsu => BitVec.ofInt 64 (a.toInt * b.toNat / 2 ^ 64)
  | .mulhu => BitVec.ofNat 64 (a.toNat * b.toNat / 2 ^ 64)
  | .div => divS a b
  | .divu => divU a b
  | .rem => remS a b
  | .remu => remU a b
  | .mulw => wordOp (· * ·) a b
  | .divw => wordOp divS a b
  | .divuw => wordOp divU a b
  | .remw => wordOp remS a b
  | .remuw => wordOp remU a b
  | .addUw => zext (a.setWidth 32) + b
  | .sh1add => (a <<< 1) + b
  | .sh2add => (a <<< 2) + b
  | .sh3add => (a <<< 3) + b
  | .sh1addUw => (zext (a.setWidth 32) <<< 1) + b
  | .sh2addUw => (zext (a.setWidth 32) <<< 2) + b
  | .sh3addUw => (zext (a.setWidth 32) <<< 3) + b
  | .andn => a &&& ~~~b
  | .orn => a ||| ~~~b
  | .xnor => ~~~(a ^^^ b)
  | .max => if a.slt b then b else a
  | .maxu => if a.ult b then b else a
  | .min => if a.slt b then a else b
  | .minu => if a.ult b then a else b
  | .rol => a.rotateLeft (b.toNat % 64)
  | .ror => a.rotateRight (b.toNat % 64)
  | .rolw => wordOp (fun x y => x.rotateLeft (y.toNat % 32)) a b
  | .rorw => wordOp (fun x y => x.rotateRight (y.toNat % 32)) a b

/-- Register-immediate instructions. -/
def aluRI (op : AluRI) (a : Word) (imm : BitVec 12) : Word :=
  match op with
  | .addi => a + sext imm
  | .slti => boolW (a.slt (sext imm))
  | .sltiu => boolW (a.ult (sext imm))
  | .xori => a ^^^ sext imm
  | .ori => a ||| sext imm
  | .andi => a &&& sext imm
  | .addiw => wordOp (· + ·) a (sext imm)

/-- Immediate shifts. -/
def aluSh (op : AluSh) (a : Word) (amt : BitVec 6) : Word :=
  match op with
  | .slli => a <<< amt.toNat
  | .srli => a >>> amt.toNat
  | .srai => a.sshiftRight amt.toNat
  | .slliw => sext ((a.setWidth 32) <<< amt.toNat)
  | .srliw => sext ((a.setWidth 32) >>> amt.toNat)
  | .sraiw => sext ((a.setWidth 32).sshiftRight amt.toNat)
  | .slliUw => zext (a.setWidth 32) <<< amt.toNat
  | .rori => a.rotateRight amt.toNat
  | .roriw => sext ((a.setWidth 32).rotateRight amt.toNat)

/-- Byte k of a word. -/
def byteOf (a : Word) (k : Nat) : Byte := a.extractLsb' (8 * k) 8

/-- Unary instructions of Zbb. -/
def aluU (op : AluU) (a : Word) : Word :=
  match op with
  | .clz => BitVec.ofNat 64 (clzN a)
  | .ctz => BitVec.ofNat 64 (ctzN a)
  | .cpop => BitVec.ofNat 64 (cpopN a)
  | .clzw => BitVec.ofNat 64 (clzN (a.setWidth 32))
  | .ctzw => BitVec.ofNat 64 (ctzN (a.setWidth 32))
  | .cpopw => BitVec.ofNat 64 (cpopN (a.setWidth 32))
  | .sextB => sext (a.setWidth 8)
  | .sextH => sext (a.setWidth 16)
  | .zextH => zext (a.setWidth 16)
  | .orcB => BitVec.ofNat 64 (leNat ((List.range 8).map fun k => if byteOf a k = 0 then 0 else 0xFF))
  | .rev8 => BitVec.ofNat 64 (leNat ((List.range 8).map fun k => byteOf a (7 - k)))

/-- The result and destination of a computational instruction at a pc. -/
def aluResult (i : Alu) (g : Gen) : Reg × Word :=
  match i with
  | .rr op rd rs1 rs2 => (rd, aluRR op (g.rd rs1) (g.rd rs2))
  | .ri op rd rs1 imm => (rd, aluRI op (g.rd rs1) imm)
  | .sh op rd rs1 amt => (rd, aluSh op (g.rd rs1) amt)
  | .un op rd rs1 => (rd, aluU op (g.rd rs1))
  | .lui rd imm => (rd, sext (imm ++ 0#12))
  | .auipc rd imm => (rd, g.pc + sext (imm ++ 0#12))

/-- INTEGER_ALU (R37). -/
def execIntegerAlu (a : Alu) (s : State) : Out :=
  onCur s fun b => b.retireWith (aluResult a b.gen).1 (aluResult a b.gen).2

/-! ### Illegal instructions (R64, R143) -/

/-- The illegal-instruction trap: stval holds the instruction. -/
def Bay.illegal (b : Bay) (w : W32) : Bay := b.fault cIllegal (zext w)
/-- The bits of an instruction, for stval. -/
def instrWord (i : Instr) : W32 := (encodeGen i).getD 0

/-- ILLEGAL_INSTRUCTION (R64): an encoding that is not assigned, or that R38 or R49 refuses. -/
def execIllegalInstruction (w : W32) (s : State) : Out := onCur s fun b => b.illegal w

/-! ### Bit fields (R131) -/

/-- BFEXT (R131). -/
def execBfext (rd rs1 : Reg) (pos len1 : BitVec 6) (s : State) : Out :=
  if !(Instr.bfext rd rs1 pos len1).wf then onCur s fun b => b.illegal (instrWord (.bfext rd rs1 pos len1))
  else onCur s fun b =>
    b.retireWith rd (BitVec.ofNat 64 ((b.gen.rd rs1).toNat / 2 ^ pos.toNat % 2 ^ (len1.toNat + 1)))

/-- BFINS (R131): reads rd as well as rs1. -/
def execBfins (rd rs1 : Reg) (pos len1 : BitVec 6) (s : State) : Out :=
  if !(Instr.bfins rd rs1 pos len1).wf then onCur s fun b => b.illegal (instrWord (.bfins rd rs1 pos len1))
  else onCur s fun b => b.retireWith rd (setBits (b.gen.rd rd) pos.toNat (len1.toNat + 1) (b.gen.rd rs1))

/-! ### Loads and stores (R37, R40, R44, R46, R111, R133) -/

/-- Bytes of an access by its width. -/
def loadBytes : LoadW → Nat
  | .b | .bu => 1
  | .h | .hu => 2
  | .w | .wu => 4
  | .d => 8
/-- The value a load writes. -/
def loadExtend (x : LoadW) (v : Nat) : Word :=
  match x with
  | .b => sext (BitVec.ofNat 8 v)
  | .h => sext (BitVec.ofNat 16 v)
  | .w => sext (BitVec.ofNat 32 v)
  | .d | .bu | .hu | .wu => BitVec.ofNat 64 v
/-- Bytes of a store. -/
def storeBytes : StoreW → Nat
  | .b => 1
  | .h => 2
  | .w => 4
  | .d => 8

/-- A watchpoint met by a generator access, which is then not performed (R401): the breakpoint exception, or a debug
stop with the pc at the instruction. -/
def Bay.watched (b : Bay) (act : Bool) (a : Word) : Bay :=
  if act then { b with debugStop := true } else b.fault cBreak a

/-- A checked read of n bytes by the current bay's generator: the bytes and the state after, or what the bay does
instead (R44, R401). -/
def genRead (s : State) (a : Word) (n cls : Nat) : Except (Bay → Bay) (List Byte × State) :=
  let y := s.bay s.cur
  match s.checkAddr s.cur .load a n with
  | .error c => .error fun b => b.fault c a
  | .ok (.fw off) => .ok (y.firmware.readN off n, s)
  | .ok (.buf bf off) =>
    match s.watchGen y.ctx bf off n cls .load with
    | some act => .error fun b => b.watched act a
    | none => .ok (s.load (shedOf s.cur) cls y.ctx bf off n)

/-- A load of the current bay's generator. -/
def genLoad (s : State) (x : LoadW) (rd : Reg) (a : Word) (cls : Nat) : Out :=
  match genRead s a (loadBytes x) cls with
  | .error f => onCur s f
  | .ok r => onCur r.2 fun b => b.retireWith rd (loadExtend x (leNat r.1))

/-- A store of the current bay's generator. -/
def genStore (s : State) (x : StoreW) (v : Word) (a : Word) (cls : Nat) : Out :=
  let y := s.bay s.cur
  let bs := leBytes v.toNat (storeBytes x)
  match s.checkAddr s.cur .store a (storeBytes x) with
  | .error c => onCur s fun b => b.fault c a
  | .ok (.fw off) => onCur s fun b => { b with firmware := b.firmware.writeN off bs }.retire
  | .ok (.buf bf off) =>
    match s.watchGen y.ctx bf off (storeBytes x) cls .store with
    | some act => onCur s fun b => b.watched act a
    | none => onCur (s.store (shedOf s.cur) cls y.ctx bf off bs) fun b => b.retire

/-- The address of an access with an offset. -/
def Gen.addr {n : Nat} (g : Gen) (rs1 : Reg) (off : BitVec n) : Word := g.rd rs1 + sext off

/-- RV64_LOAD: in class zclass (R190). -/
def execRv64Load (x : LoadW) (rd rs1 : Reg) (imm : BitVec 12) (s : State) : Out :=
  let g := (s.bay s.cur).gen
  genLoad s x rd (g.addr rs1 imm) g.zclass.toNat

/-- RV64_STORE. -/
def execRv64Store (x : StoreW) (rs2 rs1 : Reg) (imm : BitVec 12) (s : State) : Out :=
  let g := (s.bay s.cur).gen
  genStore s x (g.rd rs2) (g.addr rs1 imm) g.zclass.toNat

/-- LD.C (R133): class 15 is accepted in M mode only (R46). -/
def loadC (i : Instr) (x : LoadW) (rd rs1 : Reg) (off : BitVec 8) (cls : BitVec 4) (s : State) : Out :=
  let g := (s.bay s.cur).gen
  if cls = 15 ∧ g.mode ≠ 3 then onCur s fun b => b.illegal (instrWord i)
  else genLoad s x rd (g.addr rs1 off) cls.toNat

/-- ST.C (R133). -/
def storeC (i : Instr) (x : StoreW) (rs2 rs1 : Reg) (off : BitVec 8) (cls : BitVec 4) (s : State) : Out :=
  let g := (s.bay s.cur).gen
  if cls = 15 ∧ g.mode ≠ 3 then onCur s fun b => b.illegal (instrWord i)
  else genStore s x (g.rd rs2) (g.addr rs1 off) cls.toNat

/-- LB_C (R133). -/
def execLbC (rd rs1 : Reg) (off : BitVec 8) (cls : BitVec 4) (s : State) : Out :=
  loadC (.lbC rd rs1 off cls) .b rd rs1 off cls s
/-- LH_C (R133). -/
def execLhC (rd rs1 : Reg) (off : BitVec 8) (cls : BitVec 4) (s : State) : Out :=
  loadC (.lhC rd rs1 off cls) .h rd rs1 off cls s
/-- LW_C (R133). -/
def execLwC (rd rs1 : Reg) (off : BitVec 8) (cls : BitVec 4) (s : State) : Out :=
  loadC (.lwC rd rs1 off cls) .w rd rs1 off cls s
/-- LD_C (R133). -/
def execLdC (rd rs1 : Reg) (off : BitVec 8) (cls : BitVec 4) (s : State) : Out :=
  loadC (.ldC rd rs1 off cls) .d rd rs1 off cls s
/-- LBU_C (R133). -/
def execLbuC (rd rs1 : Reg) (off : BitVec 8) (cls : BitVec 4) (s : State) : Out :=
  loadC (.lbuC rd rs1 off cls) .bu rd rs1 off cls s
/-- LHU_C (R133). -/
def execLhuC (rd rs1 : Reg) (off : BitVec 8) (cls : BitVec 4) (s : State) : Out :=
  loadC (.lhuC rd rs1 off cls) .hu rd rs1 off cls s
/-- LWU_C (R133). -/
def execLwuC (rd rs1 : Reg) (off : BitVec 8) (cls : BitVec 4) (s : State) : Out :=
  loadC (.lwuC rd rs1 off cls) .wu rd rs1 off cls s
/-- SB_C (R133). -/
def execSbC (rs2 rs1 : Reg) (off : BitVec 8) (cls : BitVec 4) (s : State) : Out :=
  storeC (.sbC rs2 rs1 off cls) .b rs2 rs1 off cls s
/-- SH_C (R133). -/
def execShC (rs2 rs1 : Reg) (off : BitVec 8) (cls : BitVec 4) (s : State) : Out :=
  storeC (.shC rs2 rs1 off cls) .h rs2 rs1 off cls s
/-- SW_C (R133). -/
def execSwC (rs2 rs1 : Reg) (off : BitVec 8) (cls : BitVec 4) (s : State) : Out :=
  storeC (.swC rs2 rs1 off cls) .w rs2 rs1 off cls s
/-- SD_C (R133). -/
def execSdC (rs2 rs1 : Reg) (off : BitVec 8) (cls : BitVec 4) (s : State) : Out :=
  storeC (.sdC rs2 rs1 off cls) .d rs2 rs1 off cls s

/-! ### AMOs (R224 to R230) -/

/-- The scope of an AMO's aq and rl (R226). -/
def State.amoScope (s : State) (c : CtxNo) (b : BufId) : Nat := if s.homeHere c b then 2 else 3

/-- An AMO of the current bay's generator: release, operation at the home, acquire (R225, R226, R229). -/
def genAmo (s : State) (n : Nat) (aq rl : Bool) (a : Word) (f : Nat → Nat) (result : Nat → Word) (rd : Reg) : Out :=
  let y := s.bay s.cur
  match s.checkAddr s.cur .amo a n with
  | .error c => onCur s fun b => b.fault c a
  | .ok (.fw _) => onCur s fun b => b.fault cStoreAccess a
  | .ok (.buf bf off) =>
    match s.watchGen y.ctx bf off n y.gen.zclass.toNat .amo with
    | some act => onCur s fun b => b.watched act a
    | none =>
      let m := y.gen.zrelmask.setWidth 16
      let scope := s.amoScope y.ctx bf
      let s1 := if rl then s.release (shedOf s.cur) m scope else s
      let r := s1.amo (shedOf s.cur) y.gen.zclass.toNat y.ctx bf off n f
      let s2 := if aq then r.2.acquire (shedOf s.cur) m scope else r.2
      onCur (if rl then s2.forkAt s.cur scope else s2) fun b => b.retireWith rd (result r.1)

/-- RV64_AMO (R224, R225): a .W form sign-extends its result. -/
def execRv64Amo (op : AmoOp) (dbl aq rl : BitVec 1) (rd rs1 rs2 : Reg) (s : State) : Out :=
  let g := (s.bay s.cur).gen
  let n := if dbl = 1 then 8 else 4
  genAmo s n (aq == 1) (rl == 1) (g.rd rs1)
    (fun old => amoValue op (8 * n) old (g.rd rs2).toNat (g.rd rd).toNat)
    (fun old => if dbl = 1 then BitVec.ofNat 64 old else sext (BitVec.ofNat 32 old)) rd

/-- AMO_PKMIN (R229). -/
def execAmoPkmin (aq rl : BitVec 1) (rd rs1 rs2 : Reg) (s : State) : Out :=
  let g := (s.bay s.cur).gen
  let v := (g.rd rs2).toNat
  genAmo s 8 (aq == 1) (rl == 1) (g.rd rs1) (fun old => if pkkey v < pkkey old then v else old) (BitVec.ofNat 64) rd

/-- AMO_PKMAX (R229). -/
def execAmoPkmax (aq rl : BitVec 1) (rd rs1 rs2 : Reg) (s : State) : Out :=
  let g := (s.bay s.cur).gen
  let v := (g.rd rs2).toNat
  genAmo s 8 (aq == 1) (rl == 1) (g.rd rs1) (fun old => if pkkey old < pkkey v then v else old) (BitVec.ofNat 64) rd

/-! ### Jumps and branches (R43) -/

/-- The size of what SLOT 63 of the pc names in a mode (R43, R109). -/
def State.codeSize (s : State) (b : Bay) : Nat :=
  if b.gen.mode = 0 then b.csize else if b.gen.mode = 1 then s.bufSize b.ctx runtimeBuf else Config.firmwareBytes

/-- Whether a pc names fetchable code (R43): SLOT 63, bits [57:32] zero, OFF below the code's size. -/
def State.pcOk (s : State) (b : Bay) (pc : Word) : Bool :=
  addrSlot pc == 63 && pc.toNat / 2 ^ 32 % 2 ^ 26 == 0 && decide (pc.toNat % 2 ^ 32 < s.codeSize b)

/-- A jump to a target with a link register (R43): the misaligned exception is the jump's own; the access fault is the
standard one, which the fetch at the target raises after the jump has retired (log 18). -/
def genJump (s : State) (rd : Reg) (target : Word) : Out :=
  let y := s.bay s.cur
  if target.toNat % 4 ≠ 0 then onCur s fun b => b.fault cMisaligned target
  else onCur s fun b =>
    let b1 := (b.modGen fun g => g.wr rd (g.pc + 4)).retireTo target
    if s.pcOk y target then b1 else b1.fault cFetch target

/-- Whether a branch is taken. -/
def branchTaken (op : BranchOp) (a b : Word) : Bool :=
  match op with
  | .beq => a == b
  | .bne => a != b
  | .blt => a.slt b
  | .bge => !a.slt b
  | .bltu => a.ult b
  | .bgeu => !a.ult b

/-- JUMP_BRANCH (R43). JALR clears bit 0 of its target. -/
def execJumpBranch (j : Jump) (s : State) : Out :=
  let g := (s.bay s.cur).gen
  match j with
  | .jal rd off => genJump s rd (g.pc + sext (off ++ 0#1))
  | .jalr rd rs1 off => genJump s rd ((g.rd rs1 + sext off) &&& ~~~(1 : Word))
  | .br op rs1 rs2 off =>
    if branchTaken op (g.rd rs1) (g.rd rs2) then genJump s 0 (g.pc + sext (off ++ 0#1)) else onCur s Bay.retire

/-! ### Fences (R39, R206) -/

/-- FENCE and FENCE.TSO: FENCE.CM over c0 to c14 at PACKAGE scope (R39). -/
def execFence (fm pred succ : BitVec 4) (rs1 rd : Reg) (s : State) : Out :=
  let _ := (fm, pred, succ, rs1, rd)
  onCur ((s.fence (shedOf s.cur) allClasses 2).forkAt s.cur 2) Bay.retire

/-- FENCE.I discards the instruction-cache lines of the running code (R39). -/
def execFenceI (imm : BitVec 12) (rs1 rd : Reg) (s : State) : Out :=
  let _ := (imm, rs1, rd)
  onCur s fun b => { b with icache := [] }.retire

/-- FENCE_CM (R206); a zero mask or a reserved scope is an illegal instruction (R49). -/
def execFenceCm (mask : BitVec 15) (scope : BitVec 3) (s : State) : Out :=
  if !(Instr.fenceCm mask scope).wf then onCur s fun b => b.illegal (instrWord (.fenceCm mask scope))
  else onCur ((s.fence (shedOf s.cur) (mask.setWidth 16) scope.toNat).forkAt s.cur scope.toNat) Bay.retire

/-! ### System instructions (R39, R143) -/

/-- ECALL (R143): from U mode cause 8; from S mode the firmware returns a0 := −1 behind the ECALL; from M mode a trap
to M mode. -/
def execEcall (s : State) : Out :=
  onCur s fun b =>
    if b.gen.mode = 0 then b.fault 8 0
    else if b.gen.mode = 1 then b.retireWith 10 (BitVec.allOnes 64)
    else b.fault 11 0

/-- EBREAK (R143): cause 3, stval the pc. -/
def execEbreak (s : State) : Out := onCur s fun b => b.fault cBreak b.gen.pc

/-- XRET (R39): SRET and MRET as the privileged specification defines; below the mode they need, or SRET in S mode
under mstatus.TSR, an illegal instruction. -/
def execXret (machine : BitVec 1) (s : State) : Out :=
  onCur s fun b =>
    let g := b.gen
    let ok := if machine = 1 then g.mode == 3 else g.mode == 3 || (g.mode == 1 && !(g.csrRd 0x300).getLsbD 22)
    if !ok then b.illegal (instrWord (.xret machine))
    else (b.modGen fun g => if machine = 1 then g.countRetire.mret else g.countRetire.sret).progress

/-- WFI (R39): the privileged specification lets the wait end at once, in every mode. -/
def execWfi (s : State) : Out := onCur s Bay.retire

/-! ### CSRs (R38, R41, R109, R112) -/

/-- Writable bits of a standard CSR (log 1). -/
def csrMask (n : Nat) : Word :=
  match n with
  | 0x300 => 0x00000000007219AA
  | 0x302 => 0x003F00001F0001FF
  | 0x303 => 0x0000000000030000
  | 0x304 => 0x0000000000030000
  | 0x344 => 0x0000000000020000
  | 0x305 | 0x105 => 0xFFFFFFFFFFFFFFFD
  | 0x341 | 0x141 => 0xFFFFFFFFFFFFFFFC
  | 0x340 | 0x140 | 0x342 | 0x142 | 0x343 | 0x143 | 0xB00 | 0xB02 => 0xFFFFFFFFFFFFFFFF
  | 0x106 | 0x306 => 0x0000000000000000
  | 0x320 => 0x0000000000000005
  | _ => 0

/-- Bits of mstatus that sstatus shows and writes. -/
def sstatusMask : Word := 0x0000000000000122

/-- Whether a standard CSR exists (R37, R38; log 1). -/
def csrExists (n : Nat) : Bool :=
  [0x100, 0x104, 0x105, 0x106, 0x10A, 0x140, 0x141, 0x142, 0x143, 0x144, 0x300, 0x301, 0x302, 0x303, 0x304, 0x305,
   0x306, 0x30A, 0x320, 0x340, 0x341, 0x342, 0x343, 0x344, 0xB00, 0xB02, 0xF11, 0xF12, 0xF13, 0xF14, 0xF15].contains n
   || (decide (0xB03 ≤ n) && decide (n ≤ 0xB1F)) || (decide (0x323 ≤ n) && decide (n ≤ 0x33F))

/-- mip: the word-fault bit follows wfcause.VALID (R377). -/
def Bay.mip (b : Bay) : Word := (b.gen.csrRd 0x344 &&& 0x20000) ||| (if b.wf.valid then 0x10000 else 0)

/-- Words waiting in the fairlead (R112). -/
def Bay.waiting (b : Bay) : Nat :=
  b.mtx.wait.length + b.vec.wait.length + b.cin.wait.length + b.cout.wait.length + b.cls.wait.length
/-- Prefixes pending for an engine. -/
def Bay.pending (b : Bay) (e : Nat) : Nat := (b.pend.filter fun p => p.1 == e).length

/-- emitst (R112). -/
def Bay.emitst (b : Bay) (kind : Nat) : Word :=
  BitVec.ofNat 64 (b.eseq.toNat * 2 ^ 32 + b.waiting * 2 ^ 26 + b.pending 5 * 2 ^ 18 + b.pending 4 * 2 ^ 16 +
    b.pending 3 * 2 ^ 14 + b.pending 2 * 2 ^ 12 + b.pending 1 * 2 ^ 10 + (queueMask kind).toNat * 2 ^ 5)

/-- The word-fault CSRs (R378). -/
def WordFault.read (w : WordFault) (n : Nat) : Word :=
  match n with
  | 0x5C0 => BitVec.ofNat 64 ((if w.valid then 2 ^ 63 else 0) + w.act.toNat * 2 ^ 61 + w.cause.toNat)
  | 0x5C1 => BitVec.ofNat 64 (w.npfx.toNat * 8 + w.qid.toNat)
  | 0x5C2 => zext w.index
  | 0x5C3 => zext w.word
  | 0x5C4 => w.eseq ++ w.off
  | 0x5C5 => zext w.upc
  | _ => BitVec.ofNat 64 (w.kind.toNat * 2 ^ 63 + w.id.toNat * 2 ^ 48 + w.pos.toNat)

/-- The value of a CSR, none for one that does not exist. -/
def State.csrRead (s : State) (b : BayNo) (n : Nat) : Option Word :=
  let y := s.bay b
  let g := y.gen
  match n with
  | 0x800 => some (zext g.zclass)
  | 0x801 => some (zext g.zrelmask)
  | 0x802 => some g.srseed
  | 0x803 => some g.srstep
  | 0xCC0 => some (y.emitst (bayKind b))
  | 0xCC1 => some (zext y.ctx)
  | 0xCC2 => some (zext (s.die.pkg ++ b))
  | 0x5C0 | 0x5C1 | 0x5C2 | 0x5C3 | 0x5C4 | 0x5C5 | 0x5C6 => some (y.wf.read n)
  | 0x5C7 => some (zext g.hlimit)
  | 0x5C8 => some (BitVec.ofNat 64 (g.bbcSlot.toNat * 2 ^ 58 + g.bbcEn.toNat * 2 ^ 48 + g.bbcOff8.toNat * 8))
  | 0x100 => some (g.csrRd 0x300 &&& (sstatusMask ||| 0x0000000300000000))
  | 0x104 => some (g.csrRd 0x304 &&& g.csrRd 0x303)
  | 0x144 => some (y.mip &&& g.csrRd 0x303)
  | 0x344 => some y.mip
  | 0xF14 => some (zext b)
  | _ => if csrExists n then some (g.csrRd n) else none

/-- A masked write of a standard CSR. -/
def Gen.csrSet (g : Gen) (n : Nat) (mask v : Word) : Gen := g.csrWr n ((g.csrRd n &&& ~~~mask) ||| (v &&& mask))

/-- mstatus: MPP takes no reserved mode. -/
def Gen.setMstatus (g : Gen) (v : Word) : Gen :=
  let v := if v.extractLsb' 11 2 = 2#2 then setBits v 11 2 (zext ((g.csrRd 0x300).extractLsb' 11 2)) else v
  g.csrSet 0x300 (csrMask 0x300) v

/-- A write of a CSR by a generator in its mode (R5, R112, R378): only RW fields change. -/
def Bay.csrWrite (b : Bay) (n : Nat) (v : Word) : Bay :=
  match n with
  | 0x800 => b.modGen fun g => if v.extractLsb' 0 4 = 15 ∧ g.mode ≠ 3 then g else { g with zclass := v.extractLsb' 0 4 }
  | 0x801 => b.modGen fun g => { g with zrelmask := v.extractLsb' 0 15 }
  | 0x802 => b.modGen fun g => { g with srseed := v }
  | 0x803 => b.modGen fun g => { g with srstep := v }
  | 0x5C0 => { b with wf := { b.wf with act := v.extractLsb' 61 2 } }
  | 0x5C7 => b.modGen fun g => { g with hlimit := v.extractLsb' 0 32 }
  | 0x5C8 => b.modGen fun g =>
      { g with bbcSlot := v.extractLsb' 58 6, bbcEn := v.extractLsb' 48 1, bbcOff8 := v.extractLsb' 3 45 }
  | 0x100 => b.modGen fun g => g.csrSet 0x300 sstatusMask v
  | 0x300 => b.modGen fun g => g.setMstatus v
  | 0x104 => b.modGen fun g => g.csrSet 0x304 (g.csrRd 0x303 &&& csrMask 0x304) v
  | 0x144 => b.modGen fun g => g.csrSet 0x344 (g.csrRd 0x303 &&& csrMask 0x344) v
  | _ => b.modGen fun g => g.csrSet n (csrMask n) v

/-- What a CSR instruction writes, none when it writes nothing. -/
def csrNewValue (op : CsrOp) (old reg : Word) (src : Reg) : Option Word :=
  match op with
  | .rw => some reg
  | .rwi => some (zext src)
  | .rs => if src = 0 then none else some (old ||| reg)
  | .rc => if src = 0 then none else some (old &&& ~~~reg)
  | .rsi => if src = 0 then none else some (old ||| zext src)
  | .rci => if src = 0 then none else some (old &&& ~~~(zext src))

/-- The end of a CSR write: a value written into minstret stands as written, in place of the count of this instruction
(Zicsr; R37). -/
def Bay.csrRetire (b : Bay) (n : Nat) (rd : Reg) (old : Word) : Bay :=
  let b1 := b.retireWith rd old
  if n = 0xB02 then b1.modGen fun g => g.csrWr 0xB02 (b.gen.csrRd 0xB02) else b1

/-- CSR_ACCESS (R38, R41, R112). A write to bbcbase first writes the counter cache back (R138). -/
def execCsrAccess (op : CsrOp) (rd src : Reg) (csr : BitVec 12) (s : State) : Out :=
  let g := (s.bay s.cur).gen
  let bad := onCur s fun b => b.illegal (instrWord (.csrAccess op rd src csr))
  match s.csrRead s.cur csr.toNat with
  | none => bad
  | some old =>
    if g.mode.toNat < (csr.extractLsb' 8 2).toNat then bad
    else match csrNewValue op old (g.rd src) src with
    | none => onCur s fun b => b.retireWith rd old
    | some v =>
      if csr.extractLsb' 10 2 = 3 then bad
      else
        let s1 := if csr = 0x5C8 then s.flushCounters s.cur else s
        onCur s1 fun b => (b.csrWrite csr.toNat v).csrRetire csr.toNat rd old

/-! ### BBC and TRMARK (R138, R140) -/

/-- Counts one at (buffer, offset) in the cache, most recently used first (an entry keeps the buffer that it was counted
for when the capability in bbcbase.SLOT changes: DESIGN CHOICE, log 64); the entry goes back when its delta reaches
2^32 − 1, and the least recently used one when the cache would pass 64 entries. -/
def State.countBbc (s : State) (b : BayNo) (buf : BufId) (off : Nat) : State :=
  let y := s.bay b
  let delta := ((y.counters.find? fun e => e.1 == buf && e.2.1 == off).map fun e => e.2.2).getD 0 + 1
  let rest := y.counters.filter fun e => !(e.1 == buf && e.2.1 == off)
  if delta = 0xFFFFFFFF then (s.counterOne (shedOf b) y.ctx buf off delta).modBay b fun y => { y with counters := rest }
  else
    let all := (buf, off, delta) :: rest
    let s1 := match all.drop 64 with
      | [] => s
      | e :: _ => s.counterOne (shedOf b) y.ctx e.1 e.2.1 e.2.2
    s1.modBay b fun y => { y with counters := all.take 64 }

/-- BBC (R138). In M mode a bbcbase.SLOT of 63 names the firmware store, which has no home loft either: cause 24; and a
sum that passes 2^48 carries into the address's bits [57:48], which R44 checks (DESIGN CHOICE, log 64). -/
def execBbc (n : BitVec 12) (s : State) : Out :=
  let y := s.bay s.cur
  let g := y.gen
  if g.bbcEn = 0 then onCur s Bay.retire
  else
    let a : Word := BitVec.ofNat 64 (g.bbcSlot.toNat * 2 ^ 58 + (g.bbcOff8.toNat * 8 + 8 * n.toNat) % 2 ^ 58)
    match s.checkAddr s.cur .store a 8 with
    | .error c => onCur s fun b => b.fault c a
    | .ok (.fw _) => onCur s fun b => b.fault cCapability a
    | .ok (.buf bf off) =>
      if s.isHost y.ctx bf then onCur s fun b => b.fault cCapability a
      else onCur (s.countBbc s.cur bf off) Bay.retire

/-- The mark record (R140). -/
def markRecord (now : Nat) (v : Word) (eseq : W32) (pc : Word) (tag : BitVec 12) (c : CtxNo) (b : BayNo) : Nat :=
  now % 2 ^ 64 * 2 ^ 192 + v.toNat * 2 ^ 128 + eseq.toNat * 2 ^ 96 + pc.toNat % 2 ^ 32 * 2 ^ 64 + tag.toNat * 2 ^ 32 +
    c.toNat * 2 ^ 16 + b.toNat * 2 ^ 8 + 1

/-- TRMARK (R140). -/
def execTrmark (rs1 : Reg) (tag : BitVec 12) (s : State) : Out :=
  let y := s.bay s.cur
  onCur (s.trace s.cur y.ctx (markRecord s.now (y.gen.rd rs1) y.eseq y.gen.pc tag y.ctx s.cur)) Bay.retire

/-! ### ACCRD (R136) -/

/-- Element (i, j) of a set: a masked one reads +0 (R241). -/
def AccSet.elem (a : AccSet) (i j : Nat) : W32 :=
  if a.ms1.toNat < i ∨ a.ns1.toNat < j then 0 else Tab.get 0 a.val (128 * i + j)

/-- The set a bit selects. -/
def Mx.set (m : Mx) (k : BitVec 1) : AccSet := if k = 0 then m.acc0 else m.acc1

/-- ACCRD (R136): the boundary is the last group retired. -/
def execAccrd (rd rd2 rs1 : Reg) (s : State) : Out :=
  onCur s fun b =>
    let v := b.gen.rd rs1
    if rd = rd2 ∧ rd ≠ 0 then b.illegal (instrWord (.accrd rd rd2 rs1))
    else if bayKind s.cur ≠ 3 then b.fault cEngineAbsent 0
    else if v.toNat / 2 ^ 15 ≠ 0 then b.fault cOperand v
    else
      let a := b.mx.set (v.extractLsb' 14 1)
      let e := a.elem (v.extractLsb' 7 7).toNat (v.extractLsb' 0 7).toNat
      ((b.modGen fun g => g.wr rd (sext e)).retireWith rd2 (zext a.gc))

end Sys2Proof.Machine
end

