-- ==== Sys2Proof/Machine/Emit.lean ====
section
/-! DEFINITION. The fairlead and the instructions that feed it (R53, R54, R113 to R129, R158, R365), the steering of
waiting words into queues, and waiting for room. -/
namespace Sys2Proof.Machine

/-! ### Waiting instructions (R115, R144) -/

/-- The instruction at the pc cannot complete yet: it waits there and executes again at the next boundary, the cycles
waited so far kept. -/
def Bay.poll (b : Bay) (i : Instr) : Bay :=
  b.modGen fun g => { g with wait := some (.poll i (match g.wait with | some (.poll _ n) => n | _ => 0)) }

/-- The interrupt that a generator takes at its boundary, word fault before hang: its number (R144, R377, R390). -/
def Bay.interrupt? (b : Bay) : Option Nat :=
  let g := b.gen
  let st := g.csrRd 0x300
  let on (n : Nat) : Bool :=
    b.mip.getLsbD n && (g.csrRd 0x304).getLsbD n &&
      (if (g.csrRd 0x303).getLsbD n then g.mode == 0 || (g.mode == 1 && st.getLsbD 1)
       else g.mode != 3 || st.getLsbD 3)
  if on 16 then some 16 else if on 17 then some 17 else none

/-- Takes an interrupt: a delegated one in S mode. -/
def Gen.takeInterrupt (g : Gen) (n : Nat) : Gen :=
  let g := { g with wait := none, parked := false }
  if (g.csrRd 0x303).getLsbD n then g.trapS true n 0 else g.trapM true n 0

/-- The instruction that a bay's generator waits to complete, when nothing comes before it: no stop, no parking, no
interrupt at its boundary. -/
def Bay.waitsFor (b : Bay) : Option Instr :=
  match b.gen.wait with
  | some (.poll i _) =>
    if b.task.isNone || b.debugStop || b.saving || b.gen.parked || b.interrupt?.isSome then none else some i
  | _ => none

/-- An event that lets a waiting instruction proceed: f runs the instruction when it is one the event is about. The bay
named becomes the current one. -/
def onWaiting (s : State) (b : BayNo) (f : Instr → State → Option Out) : Out :=
  if !s.populated b then .fault .absentBay
  else match (s.bay b).waitsFor with
  | none => .next s
  | some i => (f i { s with cur := b }).getD (.next s)

/-! ### The fairlead (R53, R54, R113 to R118) -/

/-- E of a word (R50). -/
def wordE (w : W32) : Nat := (field w 29 3).toNat

/-- The queues that an engine word names (R50, R51). -/
def wordQueues (w : W32) : List Nat :=
  match wordE w with
  | 0 => [0, 1, 2, 3, 4].filter fun q => (field w 19 5).getLsbD q
  | e + 1 => if e < 5 then [e] else []

/-- The pending prefixes of an engine, in the order accepted. -/
def Bay.pendOf (b : Bay) (e : Nat) : List W32 := (b.pend.filter fun p => p.1 == e).map fun p => p.2

/-- check(w) (R53): the cause of the first check that fails. -/
def Bay.checkWord (kind : Nat) (b : Bay) (w : W32) : Option Nat :=
  let e := wordE w
  let target := (field w 26 3).toNat
  if e = 7 then some cReservedEngine
  else if (wordQueues w).any (fun q => !queueExists kind q) then some cEngineAbsent
  else if e = 6 ∧ 1 ≤ target ∧ target ≤ 5 ∧ queueExists kind (target - 1) = false then some cEngineAbsent
  else if e = 0 ∧ field w 19 5 = 0 then some cEmptyMask
  else if e = 6 ∧ (target = 0 ∨ 6 ≤ target) then some cBadPrefix
  else if e = 6 ∧ 2 ≤ b.pending target then some cPrefixOverflow
  else match prefixesOf w with
    | some n => if 1 ≤ e ∧ e ≤ 5 ∧ b.pending e ≠ n then some cPrefixCount else none
    | none => none

/-- room(w) (R115). -/
def Bay.room (b : Bay) (w : W32) : Bool := (wordQueues w).all fun q => (b.queue q).wait.length < Config.waitCap

/-- A waiting word joins the lists of the named queues. -/
def Bay.join (b : Bay) (e : Entry) : List Nat → Bay
  | [] => b
  | q :: qs => (b.modQueue q fun v => { v with wait := v.wait ++ [e] }).join e qs

/-- accept(w) with the emitting instruction's code offset (R54, R116 to R118). -/
def Bay.accept (b : Bay) (w off : W32) : Bay :=
  if wordE w = 6 then { b with pend := b.pend ++ [((field w 26 3).toNat, w)] }
  else
    let e := wordE w
    let n : Entry :=
      { w := w, pfx := b.pendOf e, eseq := b.eseq, off := off, seed := b.gen.srseed, step := b.gen.srstep,
        seqNo := b.seqNo, fork := b.forks }
    { b with pend := b.pend.filter (fun p => p.1 != e), eseq := b.eseq + 1, seqNo := b.seqNo + 1 }.join n (wordQueues w)

/-- The code offset recorded with a word: PC[31:0] (R116). -/
def Gen.off (g : Gen) : W32 := g.pc.setWidth 32

/-- ENDF of the task that a bay runs (R347). -/
def State.ended (s : State) (b : BayNo) : Bool :=
  match (s.bay b).task with
  | some t => (s.slot t).endf
  | none => false

/-- An instruction that appends to queues: illegal once ENDF = 1 (R365). -/
def onEmit (s : State) (i : Instr) (f : Bay → Bay) : Out :=
  onCur s fun b => if s.ended s.cur then b.illegal (instrWord i) else f b

/-- EMIT (R120). -/
def execEmit (rs1 : Reg) (s : State) : Out :=
  onEmit s (.emit rs1) fun b =>
    let w := (b.gen.rd rs1).setWidth 32
    match b.checkWord (bayKind s.cur) w with
    | some c => b.fault c (zext w)
    | none => if b.room w then (b.accept w b.gen.off).retire else b.poll (.emit rs1)

/-- EMIT2 (R120): both words or neither; stval marks the second (R143). -/
def execEmit2 (rs1 : Reg) (s : State) : Out :=
  onEmit s (.emit2 rs1) fun b =>
    let w0 := (b.gen.rd rs1).extractLsb' 0 32
    let w1 := (b.gen.rd rs1).extractLsb' 32 32
    match b.checkWord (bayKind s.cur) w0 with
    | some c => b.fault c (zext w0)
    | none =>
      let b1 := b.accept w0 b.gen.off
      match b1.checkWord (bayKind s.cur) w1 with
      | some c => b.fault c (zext w1 + 0x100000000)
      | none => if b.room w0 && b1.room w1 then (b1.accept w1 b.gen.off).retire else b.poll (.emit2 rs1)

/-- EMITNB (R120). -/
def execEmitnb (rd rs1 : Reg) (s : State) : Out :=
  onEmit s (.emitnb rd rs1) fun b =>
    let w := (b.gen.rd rs1).setWidth 32
    match b.checkWord (bayKind s.cur) w with
    | some c => b.fault c (zext w)
    | none => if b.room w then (b.accept w b.gen.off).retireWith rd 1 else b.retireWith rd 0

/-- EMITS (R124): one word of the block. The instruction retires when the count is 0; until then it stands at its own
boundary with x[rs1] and x[rs2] past the words accepted. -/
def execEmits (rs1 rs2 : Reg) (s : State) : Out :=
  let g := (s.bay s.cur).gen
  let i := Instr.emits rs1 rs2
  if !i.wf || s.ended s.cur then onCur s fun b => b.illegal (instrWord i)
  else if g.rd rs2 = 0 then onCur s Bay.retire
  else match genRead s (g.rd rs1) 4 g.zclass.toNat with
  | .error f => onCur s f
  | .ok r =>
    let w : W32 := BitVec.ofNat 32 (leNat r.1)
    match (s.bay s.cur).checkWord (bayKind s.cur) w with
    | some c => onCur r.2 fun b => b.fault c (zext w)
    | none =>
      onCur r.2 fun b =>
        if !b.room w then b.poll i
        else
          let b1 := (b.accept w b.gen.off).modGen fun g => (g.wr rs1 (g.rd rs1 + 4)).wr rs2 (g.rd rs2 - 1)
          if b1.gen.rd rs2 = 0 then b1.retire else b1.poll i

/-- EMITQ (R128). -/
def execEmitq (rd rs1 : Reg) (s : State) : Out :=
  onCur s fun b =>
    let q := (b.gen.rd rs1).toNat
    if 4 < q then b.fault cOperand (b.gen.rd rs1)
    else if !queueExists (bayKind s.cur) q then b.retireWith rd 0
    else b.retireWith rd (BitVec.ofNat 64
      ((Config.queueCap - (b.queue q).ent.length) + (Config.waitCap - (b.queue q).wait.length)))

/-- One queue takes the oldest word of its list, if it has a free entry (R114). -/
def Queue.take (q : Queue) : Queue :=
  match q.wait with
  | e :: t => if q.ent.length < Config.queueCap then { q with wait := t, ent := q.ent ++ [e] } else q
  | [] => q

/-- QUEUE_TAKE (R114): every queue takes at most one word. The fairlead goes on steering while the queues stand stopped
(R377, R399). -/
def execQueueTake (bay : BayNo) (s : State) : Out :=
  onBay s bay fun s => s.modBay bay fun b =>
    { b with mtx := b.mtx.take, vec := b.vec.take, cin := b.cin.take, cout := b.cout.take, cls := b.cls.take }

end Sys2Proof.Machine
end

