-- ==== Sys2Proof/Machine/Tiles.lean ====
section
/-! DEFINITION. The tile table, its instructions, and the free markers that the queues pass (R147 to R164). -/
namespace Sys2Proof.Machine

/-! ### Queues: heads and executing words (R150, R160, R377, R384) -/

/-- Whether the bay's queues may issue: it runs a task, holds no word fault, no debug stop and no stop order
(R377, R385, R399). -/
def Bay.canIssue (b : Bay) : Bool := b.task.isSome && !b.wf.valid && !b.debugStop && !b.saving

/-- Whether every word that has left queue q's head has completed. -/
def Bay.idle (b : Bay) (q : Nat) : Bool :=
  match q with
  | 0 => b.mx.arrays.isEmpty && b.mx.port.isNone
  | 1 => b.vx.pend.isEmpty && b.vx.stopped.isNone
  | 2 => b.cpIn.jobs.isEmpty
  | 3 => b.cpOut.jobs.isEmpty
  | _ => b.kx.job.isNone

/-- The head of queue q. -/
def Bay.head? (b : Bay) (q : Nat) : Option Entry := (b.queue q).ent.head?

/-- The head of queue q leaves it: ISSUED counts it (R384), and it is progress while the generator is parked (R390). -/
def Bay.leave (b : Bay) (q : Nat) : Bay :=
  let b1 := b.modQueue q fun v => { v with ent := v.ent.tail, issued := v.issued + 1 }
  if b1.gen.parked then b1.progress else b1

/-! ### Allocation (R149, R157) -/

/-- The lines that tiles of a table occupy at a level, as first line and count. -/
def occupied (level : BitVec 1) (t : Tab Tile) : List (Nat × Nat) :=
  (t.filter fun e => e.2.alloc != 0 && e.2.level == level).map fun e => (e.2.base, e.2.lines)

/-- The occupied lines at a level that a bay allocates from: its own store's, or those of its shed's pool. -/
def State.occupied (s : State) (b : BayNo) (level : BitVec 1) : List (Nat × Nat) :=
  if level = 0 then Machine.occupied 0 (s.bay b).tiles
  else (List.range 16).flatMap fun p => Machine.occupied 1 (s.bay (shedOf b ++ BitVec.ofNat 4 p)).tiles

/-- Lines at a level. -/
def levelLines (level : BitVec 1) : Nat := if level = 0 then Config.bayLines else Config.poolLines

/-- Whether n lines from a are free of all the runs listed. -/
def runFree (occ : List (Nat × Nat)) (total a n : Nat) : Bool :=
  decide (a + n ≤ total) && occ.all fun r => decide (a + n ≤ r.1) || decide (r.1 + r.2 ≤ a)

/-- The least number of a list. -/
def leastOf : List Nat → Option Nat
  | [] => none
  | a :: t => match leastOf t with
    | none => some a
    | some b => some (min a b)

/-- The lowest run of n free lines: it begins at line 0 or behind an occupied run. -/
def lowestRun (occ : List (Nat × Nat)) (total n : Nat) : Option Nat :=
  leastOf ((0 :: occ.map fun r => r.1 + r.2).filter fun a => runFree occ total a n)

/-- The lowest free handle. -/
def Bay.freeHandle (b : Bay) : Option Byte :=
  ((List.range 256).find? fun h => (b.tile (BitVec.ofNat 8 h)).alloc == 0).map (BitVec.ofNat 8)

/-- The entry that TALLOC's operands describe, at BASE (R157). -/
def tallocTile (v p : Word) (base : Nat) : Tile :=
  { alloc := 1, state := 0, level := p.extractLsb' 63 1, autoe := v.extractLsb' 28 1, fmt := v.extractLsb' 24 4,
    rows1 := v.extractLsb' 12 12, cols1 := v.extractLsb' 0 12, base := base, keyv := p.extractLsb' 62 1,
    td := p.extractLsb' 48 12, origin := [p.extractLsb' 0 24, p.extractLsb' 24 24, 0, 0, 0, 0, 0, 0] }

/-- TALLOC (R157): −1 without a free handle, −2 without a run. -/
def execTalloc (rd rs1 rs2 : Reg) (s : State) : Out :=
  let b := s.bay s.cur
  let v := b.gen.rd rs1
  let p := b.gen.rd rs2
  let t := tallocTile v p 0
  if v.toNat / 2 ^ 29 ≠ 0 ∨ t.fmt = 0xF then onCur s fun b => b.fault cOperand v
  else if p.extractLsb' 60 2 ≠ 0 then onCur s fun b => b.fault cOperand p
  else match b.freeHandle with
  | none => onCur s fun b => b.retireWith rd (BitVec.allOnes 64)
  | some h =>
    match lowestRun (s.occupied s.cur t.level) (levelLines t.level) t.lines with
    | none => onCur s fun b => b.retireWith rd 0xFFFFFFFFFFFFFFFE
    | some a => onCur s fun b => (b.setTile h (tallocTile v p a)).retireWith rd (zext h)

/-! ### Freeing (R155, R158 to R160) -/

/-- Releases a handle: its lines are free, and pool lines lose their contents (R155). -/
def State.freeTile (s : State) (b : BayNo) (h : Byte) : State :=
  let t := (s.bay b).tile h
  let s1 := if t.alloc ≠ 0 ∧ t.level = 1 then
      s.modShed (shedOf b) fun d =>
        { d with pool := d.pool.clear fun a => decide (t.base * 64 ≤ a) && decide (a < (t.base + t.lines) * 64) }
    else s
  s1.modBay b fun y => { y with tiles := y.tiles.erase h.toNat }

/-- Frees every tile of a bay (R153). -/
def State.freeTiles (s : State) (b : BayNo) : State :=
  ((s.bay b).tiles.map fun e => BitVec.ofNat 8 e.1).foldl (fun s h => s.freeTile b h) s

/-- Whether every existing queue's waiting list has room (R158, R365). -/
def Bay.roomAll (kind : Nat) (b : Bay) : Bool :=
  (queueIds kind).all fun q => (b.queue q).wait.length < Config.waitCap

/-- An entry that a generator instruction places in every existing queue's list; ESEQ does not advance (R159, R365). -/
def Bay.placeAll (kind : Nat) (b : Bay) (k : EntryKind) : Bay :=
  { b with seqNo := b.seqNo + 1 }.join
    { kind := k, eseq := b.eseq, off := b.gen.off, seed := b.gen.srseed, step := b.gen.srstep, seqNo := b.seqNo,
      fork := b.forks }
    (queueIds kind)

/-- TFREE (R158). -/
def execTfree (rs1 : Reg) (s : State) : Out :=
  onEmit s (.tfree rs1) fun b =>
    let v := b.gen.rd rs1
    let h : Byte := v.extractLsb' 0 8
    if v.toNat / 2 ^ 8 ≠ 0 ∨ (b.tile h).alloc ≠ 1 then b.fault cOperand v
    else if !b.roomAll (bayKind s.cur) then b.poll (.tfree rs1)
    else ((b.placeAll (bayKind s.cur) (.marker h)).setTile h { b.tile h with alloc := 2 }).retire

/-- A queue passes the marker of h at its head (R160). -/
def State.passMarker (s : State) (bay : BayNo) (q : Nat) (h : Byte) : State :=
  let s1 := s.modBay bay fun b =>
    (b.leave q).setTile h { b.tile h with passed := (b.tile h).passed ||| BitVec.ofNat 5 (2 ^ q) }
  if queueMask (bayKind bay) &&& ~~~((s1.bay bay).tile h).passed = 0 then s1.freeTile bay h else s1

/-- MARKER_PASS (R160): a marker stands at the head, and every earlier word of the queue has completed. -/
def execMarkerPass (bay : BayNo) (q : QId) (s : State) : Out :=
  onBay s bay fun s =>
    let b := s.bay bay
    match b.head? q.toNat with
    | some { kind := .marker h, .. } => if b.canIssue && b.idle q.toNat then s.passMarker bay q.toNat h else s
    | _ => s

/-! ### Reading the table (R161, R164) -/

/-- TINFO item 0 (R161). -/
def Tile.info (t : Tile) : Word :=
  if t.alloc = 0 then 0
  else t.alloc ++ t.state ++ t.level ++ t.autoe ++ t.keyv ++ t.td ++ t.fmt ++ t.rows1 ++ t.cols1 ++ 0#9 ++
    BitVec.ofNat 8 (t.pitch - 1)

/-- TINFO (R161). Items 1 to 5 of a free handle read 0 as item 0 does (DESIGN CHOICE, log 72). -/
def execTinfo (rd rs1 : Reg) (s : State) : Out :=
  onCur s fun b =>
    let v := b.gen.rd rs1
    let t := b.tile (v.extractLsb' 0 8)
    let item := (v.extractLsb' 8 4).toNat
    if v.toNat / 2 ^ 12 ≠ 0 ∨ 5 < item then b.fault cOperand v
    else if item = 0 then b.retireWith rd t.info
    else if item = 5 then b.retireWith rd (BitVec.ofNat 64 t.base)
    else b.retireWith rd ((t.org (2 * item - 1)).signExtend 32 ++ (t.org (2 * item - 2)).signExtend 32)

/-- The cycles that the generator has waited at its instruction. -/
def Gen.waited (g : Gen) : Nat :=
  match g.wait with
  | some (.poll _ n) => n
  | _ => 0

/-- stval of an expired TWAIT (R163). -/
def Tile.expiry (t : Tile) (h : Byte) (want : BitVec 2) : Word :=
  0x03#8 ++ 0#42 ++ t.alloc ++ t.state ++ want ++ h

/-- TWAIT (R162): one test. A handle that stops being allocated while the wait goes on ends it as expired. -/
def execTwait (rs1 rs2 : Reg) (s : State) : Out :=
  onCur s fun b =>
    let v := b.gen.rd rs1
    let h : Byte := v.extractLsb' 0 8
    let want : BitVec 2 := v.extractLsb' 8 2
    let t := b.tile h
    if v.toNat / 2 ^ 10 ≠ 0 ∨ (t.alloc = 0 ∧ b.gen.wait = none) then b.fault cOperand v
    else if t.alloc ≠ 0 ∧ t.state = want then b.retire
    else if t.alloc = 0 ∨ (b.gen.rd rs2).toNat ≤ b.gen.waited then b.fault cExpired (t.expiry h want)
    else b.poll (.twait rs1 rs2)

/-- TSTAT (R164). -/
def execTstat (rd rs1 : Reg) (s : State) : Out :=
  onCur s fun b =>
    let v := b.gen.rd rs1
    let t := b.tile (v.extractLsb' 0 8)
    if v.toNat / 2 ^ 8 ≠ 0 ∨ t.alloc ≠ 1 then b.fault cOperand v else b.retireWith rd (zext t.status)

/-- BTST (R164). -/
def execBtst (rd rs1 rs2 : Reg) (s : State) : Out :=
  onCur s fun b =>
    let v := b.gen.rd rs1
    let w := b.gen.rd rs2
    let t := b.tile (v.extractLsb' 0 8)
    let m : Byte := w.extractLsb' 0 8
    let hit := stFlags t.status &&& m
    if v.toNat / 2 ^ 8 ≠ 0 ∨ t.alloc ≠ 1 then b.fault cOperand v
    else if w.toNat / 2 ^ 9 ≠ 0 then b.fault cOperand w
    else b.retireWith rd (boolW (if w.getLsbD 8 then hit == m else hit != 0))

end Sys2Proof.Machine
end

