-- ==== Sys2Proof/Machine/Caps.lean ====
section
/-! DEFINITION. Buffers, capabilities and tensor descriptors (R165 to R186). -/
namespace Sys2Proof.Machine

/-! ### Waiting for the yard (R173) -/

/-- The generator waits for the yard's acknowledgement of an instruction performed there. -/
def Bay.ask (b : Bay) (i : Instr) (a : YardAnswer) : Bay := b.modGen fun g => { g with wait := some (.yard i a) }

/-- The acknowledgement: the fault that the yard answers, or the result and the instruction's end. -/
def Bay.acknowledge (b : Bay) : Bay :=
  match b.gen.wait with
  | some (.yard _ a) =>
    if !a.ready then b
    else match a.fault with
    | some (c, v) => b.fault c v
    | none => b.retireWith a.rd a.val
  | _ => b

/-- YARD_ACKNOWLEDGE (R173). -/
def execYardAcknowledge (bay : BayNo) (s : State) : Out := onBay s bay fun s => s.modBay bay Bay.acknowledge

/-! ### Pages (R166, R169, R174, R183) -/

/-- Pages of a buffer at loft k: none for a host-resident or imported one. -/
def Buf.pagesAt (f : Buf) (k : Nat) : Nat :=
  if f.host.isSome || f.imp.isSome then 0
  else if f.pin = 1 then (if f.loft.toNat = k then (f.size + f.pageBytes - 1) / f.pageBytes else 0)
  else
    let chunks := ((f.size + 4095) / 4096 + 7 - (k + 8 - f.loft.toNat) % 8) / 8
    (chunks * 4096 + f.pageBytes - 1) / f.pageBytes

/-- Bytes of the pages of a buffer over all lofts. -/
def Buf.pageTotal (f : Buf) : Nat := ((List.range 8).map fun k => f.pagesAt k * f.pageBytes).sum

/-- Bytes in use at loft k. -/
def State.loftUsed (s : State) (k : Nat) : Nat :=
  ((s.yard.bufs.filter fun e => e.1 % 2 ^ 24 != 0xFFFFFF).map fun e => e.2.pagesAt k * e.2.pageBytes).sum

/-- Whether every loft that a new buffer names has free frames for its pages (R29, R174). -/
def State.framesFree (s : State) (f : Buf) : Bool :=
  (List.range 8).all fun k => f.pagesAt k == 0 || decide (s.loftUsed k + f.pagesAt k * f.pageBytes ≤ Config.loftBytes)

/-- Buffers of a context. -/
def State.bufsOf (s : State) (c : CtxNo) : List (BufId × Buf) :=
  (s.yard.bufs.filter fun e => e.1 / 2 ^ 24 == c.toNat).map fun e => (BitVec.ofNat 24 e.1, e.2)

/-- The lowest free id below the system's (R165), while the context's incarnation counter lasts (R186). -/
def State.freeBufId (s : State) (c : CtxNo) : Option BufId :=
  let used := (s.bufsOf c).map fun e => e.1.toNat
  match (List.range (used.length + 1)).find? fun n => !used.contains n with
  | some n => if n < 0xFFFFF0 ∧ (s.ctx c).incs < 2 ^ 48 then some (BitVec.ofNat 24 n) else none
  | none => none

/-- Creates a buffer under an id: it takes the context's incarnation counter (R186). -/
def State.createBuf (s : State) (c : CtxNo) (id : BufId) (f : Buf) : State :=
  let x := s.ctx c
  (s.setBuf c id { f with inc := BitVec.ofNat 48 x.incs }).modCtx c fun x =>
    { x with incs := x.incs + 1, mused := if f.byNew then x.mused + BitVec.ofNat 48 f.pageTotal else x.mused }

/-- Whether a line's tag names a buffer. -/
def keyOf (c : CtxNo) (b : BufId) (key : Nat) : Bool := keyCtx key == c && keyBuf key == b

/-- A loft without the lines, translations and remapped pages of a buffer. -/
def Loft.forget (d : Loft) (c : CtxNo) (b : BufId) : Loft :=
  let of (tag : Nat) : Bool := tag / 2 ^ 33 == c.toNat * 2 ^ 24 + b.toNat
  { d with lines := d.lines.filter fun e => !keyOf c b e.1, tlb := d.tlb.filter fun e => !of e.1,
           moved := d.moved.filter fun e => !of e.1 }

/-- Drops every cached line of a buffer without writing it back, and what the lofts keep of its pages. -/
def State.dropBufLines (s : State) (c : CtxNo) (b : BufId) : State :=
  { s with sheds := s.sheds.map fun e => (e.1, { e.2 with cache := e.2.cache.filter fun l => !keyOf c b l.1 }),
           lofts := s.lofts.map fun e => (e.1, e.2.forget c b) }

/-- Retires a buffer's id (R169): its lines go, and its pages return; what a later
buffer under the id reads carries nothing of them (R186; log 6). -/
def State.retireBuf (s : State) (c : CtxNo) (b : BufId) : State :=
  match s.buf? c b with
  | none => s
  | some f =>
    let s1 := s.dropBufLines c b
    let base := memKey s.die.pkg.toNat c.toNat b.toNat 0
    let s2 := if f.host.isSome || f.imp.isSome then s1
      else { s1 with mem := Mem.clear s1.mem fun a => decide (base ≤ a) && decide (a < base + 2 ^ 48) }
    (s2.modYard fun y => { y with bufs := y.bufs.erase (c.toNat * 2 ^ 24 + b.toNat) }).modCtx c fun x =>
      { x with mused := if f.byNew then x.mused - BitVec.ofNat 48 f.pageTotal else x.mused }

/-- One reference less; the buffer is retired at 0 (R169). -/
def State.dropRef (s : State) (c : CtxNo) (b : BufId) : State :=
  match s.buf? c b with
  | none => s
  | some f => if f.count ≤ 1 then s.retireBuf c b else s.setBuf c b { f with count := f.count - 1 }

/-- One reference more. -/
def State.addRef (s : State) (c : CtxNo) (b : BufId) : State :=
  match s.buf? c b with
  | none => s
  | some f => s.setBuf c b { f with count := f.count + 1 }

/-- Drops every capability that a bay holds in cap0 to cap62 (R168). -/
def State.dropCaps (s : State) (b : BayNo) : State :=
  let y := s.bay b
  (y.caps.foldl (fun s e => s.dropRef y.ctx e.2.buf) s).modBay b fun y => { y with caps := [] }

/-- Drops the capabilities that wait in a task's argument slots (R168). -/
def State.dropArgCaps (s : State) (t : TaskId) : State :=
  let x := s.slot t
  (List.range 6).foldl
    (fun s k => if x.capm.getLsbD k then s.dropRef x.ctx ((x.args.getD k 0).extractLsb' 0 24) else s) s

/-! ### Capability instructions (R173 to R178) -/

/-- The capability in a slot; slot 63 is the code object's (R167). -/
def Bay.capAt (b : Bay) (slot : Nat) : Option Cap :=
  if slot = 63 then some { buf := b.code, rights := 1 } else b.caps.find? slot

/-- A slot whose capability changes loses its lookaside entry (R171). -/
def Bay.unlook (b : Bay) (slot : Nat) : Bay := { b with look := b.look.filter fun e => e.1 / 2 ^ 24 != slot }

/-- The capability lookaside takes the entry of a slot (R171). -/
def State.lookFill (s : State) (bay : BayNo) (slot : Nat) : State :=
  let b := s.bay bay
  match b.caps.find? slot with
  | none => s
  | some c =>
    match s.buf? b.ctx c.buf with
    | none => s
    | some f =>
      let e : Look := { rights := c.rights, size := f.size, pin := f.pin, loft := f.loft, pg2m := f.pg2m, host := f.host,
                        imp := f.imp }
      s.modBay bay fun b =>
        { b with look := Tab.putIn Config.lookEntries b.look (slot * 2 ^ 24 + c.buf.toNat) e }

/-- The lowest empty slot in cap0 to cap62. -/
def Bay.emptySlot (b : Bay) : Option Nat := (List.range 63).find? fun k => (b.caps.find? k).isNone

/-- A slot number in SLOT position: the stval of a capability fault (R175). -/
def slotWord (slot : Nat) : Word := BitVec.ofNat 64 (slot * 2 ^ 58)

/-- The buffer that CAP.NEW's operands describe (R174). -/
def capNewBuf (v p : Word) : Buf :=
  { size := v.toNat, pin := p.extractLsb' 4 1, loft := p.extractLsb' 5 3, pg2m := p.extractLsb' 8 1, byNew := true }

/-- The results of CAP.NEW below 0. -/
def minusOne : Word := 0xFFFFFFFFFFFFFFFF
def minusTwo : Word := 0xFFFFFFFFFFFFFFFE
def minusThree : Word := 0xFFFFFFFFFFFFFFFD

/-- CAP.NEW at the yard (R174): the result, and the state with the buffer and its capability. The buffer's contents are
free values of a seed of its own (log 6). -/
def State.capNew (s : State) (bay : BayNo) (v p : Word) : Word × State :=
  let b := s.bay bay
  let x := s.ctx b.ctx
  let f := capNewBuf v p
  match b.emptySlot with
  | none => (minusOne, s)
  | some n =>
    if (x.mquota ≠ 0 ∧ x.mquota.toNat * 2 ^ 20 < x.mused.toNat + f.pageTotal) ∨ !s.framesFree f then (minusTwo, s)
    else match s.freeBufId b.ctx with
    | none => (minusThree, s)
    | some id =>
      (BitVec.ofNat 64 n,
        (s.draw.2.createBuf b.ctx id { f with seed := some s.freeCtr }).modBay bay fun b =>
          ({ b with caps := b.caps.put n { buf := id, rights := p.extractLsb' 0 4 } } : Bay).unlook n)

/-- CAP_NEW (R174). -/
def execCapNew (rd rs1 rs2 : Reg) (s : State) : Out :=
  let g := (s.bay s.cur).gen
  let v := g.rd rs1
  let p := g.rd rs2
  if v = 0 ∨ 2 ^ 48 < v.toNat then onCur s fun b => b.fault cOperand v
  else if p.toNat / 2 ^ 9 ≠ 0 then onCur s fun b => b.fault cOperand p
  else
    let r := s.capNew s.cur v p
    onCur r.2 fun b => b.ask (.capNew rd rs1 rs2) { rd := rd, val := r.1 }

/-- Whether argument slot k of task t may take a capability of context c (R175): resident, not dispatched, empty. -/
def State.eligible (s : State) (c : CtxNo) (t : TaskId) (k : Nat) : Bool :=
  let x := s.slot t
  (x.state == .waiting || x.state == .ready) && x.ctx == c && !x.capm.getLsbD k

/-- Places a capability into an argument slot, in the form of R350. -/
def State.placeArg (s : State) (t : TaskId) (k : Nat) (c : Cap) : State :=
  s.modSlot t fun x =>
    { x with args := x.args.set k (zext (c.rights ++ c.buf)), capm := x.capm ||| BitVec.ofNat 6 (2 ^ k) }

/-- The target operand of CAP.SHARE and CAP.XFER (R175): task, argument slot, rights mask. -/
def argTarget (p : Word) : TaskId × Nat × BitVec 4 :=
  (p.extractLsb' 0 16, (p.extractLsb' 16 3).toNat, p.extractLsb' 19 4)
/-- Whether it breaks its layout. -/
def argTargetBad (p : Word) : Bool := decide (p.toNat / 2 ^ 23 ≠ 0) || decide (6 ≤ (p.extractLsb' 16 3).toNat)

/-- CAP_SHARE (R175): judged and placed in one step at the yard. Where the reference count is full, stval holds rs2, as for an
ineligible target (DESIGN CHOICE, log 71). -/
def execCapShare (rs1 rs2 : Reg) (s : State) : Out :=
  let b := s.bay s.cur
  let v := b.gen.rd rs1
  let p := b.gen.rd rs2
  let t := argTarget p
  if v.toNat / 2 ^ 6 ≠ 0 then onCur s fun b => b.fault cOperand v
  else if argTargetBad p then onCur s fun b => b.fault cOperand p
  else match b.capAt v.toNat with
  | none => onCur s fun b => b.fault cCapability (slotWord v.toNat)
  | some c =>
    if !c.rights.getLsbD 3 then onCur s fun b => b.fault cCapability (slotWord v.toNat)
    else if !s.eligible b.ctx t.1 t.2.1 || ((s.buf? b.ctx c.buf).map fun f => f.count) == some 0xFFFFFFFF then
      onCur s fun b => b.fault cOperand p
    else onCur ((s.placeArg t.1 t.2.1 { c with rights := c.rights &&& t.2.2 }).addRef b.ctx c.buf) fun b =>
      b.ask (.capShare rs1 rs2) {}

/-- Whether a word is a memory word (R172, R245): a copy word, or a matrix word that reads scales. -/
def memoryWord (e : Entry) : Bool :=
  match e.kind with
  | .word =>
    match wordE e.w with
    | 3 | 4 => true
    | 1 =>
      let p := e.pfx.getD 0 0
      match (field e.w 24 5).toNat with
      | 1 | 3 => field p 15 1 == 1 || field p 14 1 == 1
      | 2 => field p 15 1 == 1
      | 4 => field p 25 1 == 1
      | 7 => field p 18 1 == 1
      | _ => false
    | _ => false
  | _ => false

/-- Whether a queue holds a memory word that has not issued. -/
def Queue.hasMemory (q : Queue) : Bool := q.wait.any memoryWord || q.ent.any memoryWord
/-- Whether every memory word accepted so far has issued (R182). -/
def Bay.memoryIssued (b : Bay) : Bool :=
  !(b.mtx.hasMemory || b.vec.hasMemory || b.cin.hasMemory || b.cout.hasMemory || b.cls.hasMemory)
/-- Whether every memory word accepted so far has completed (R172). -/
def Bay.memoryDone (b : Bay) : Bool :=
  b.memoryIssued && b.cpIn.jobs.isEmpty && b.cpOut.jobs.isEmpty && !b.mx.arrays.any (fun j => memoryWord j.ent) &&
    !b.mx.port.any fun j => memoryWord j.ent

/-- Whether the generator waits at an instruction that it polls. -/
def Gen.polls (g : Gen) (i : Instr) : Bool :=
  match g.wait with
  | some (.poll j _) => j == i
  | _ => false

/-- CAP_XFER (R175): judged once, then the capability wait, then the release, and at the yard the target is judged
again and takes the capability in one step; the wait and the release stand when that second judgement fails. -/
def execCapXfer (rs1 rs2 : Reg) (s : State) : Out :=
  let b := s.bay s.cur
  let v := b.gen.rd rs1
  let p := b.gen.rd rs2
  let t := argTarget p
  if v.toNat / 2 ^ 6 ≠ 0 then onCur s fun b => b.fault cOperand v
  else if argTargetBad p then onCur s fun b => b.fault cOperand p
  else match b.capAt v.toNat with
  | none => onCur s fun b => b.fault cCapability (slotWord v.toNat)
  | some c =>
    if !c.rights.getLsbD 2 then onCur s fun b => b.fault cCapability (slotWord v.toNat)
    else if !b.gen.polls (.capXfer rs1 rs2) && !s.eligible b.ctx t.1 t.2.1 then onCur s fun b => b.fault cOperand p
    else if !b.memoryDone then onCur s fun b => b.poll (.capXfer rs1 rs2)
    else
      let s1 := (s.release (shedOf s.cur) allClasses 2).forkAt s.cur 2
      if !s1.eligible b.ctx t.1 t.2.1 then onCur s1 fun b => b.fault cOperand p
      else onCur (s1.placeArg t.1 t.2.1 { c with rights := c.rights &&& t.2.2 }) fun b =>
        (({ b with caps := b.caps.erase v.toNat } : Bay).unlook v.toNat).ask (.capXfer rs1 rs2) {}

/-- CAP_DROP (R176). -/
def execCapDrop (rs1 : Reg) (s : State) : Out :=
  let b := s.bay s.cur
  let v := b.gen.rd rs1
  if v.toNat / 2 ^ 6 ≠ 0 then onCur s fun b => b.fault cOperand v
  else match b.caps.find? v.toNat with
  | none => onCur s fun b => b.fault cCapability (slotWord v.toNat)
  | some c =>
    if v = 63 then onCur s fun b => b.fault cCapability (slotWord 63)
    else if !b.memoryDone then onCur s fun b => b.poll (.capDrop rs1)
    else onCur (s.dropRef b.ctx c.buf) fun b =>
      (({ b with caps := b.caps.erase v.toNat } : Bay).unlook v.toNat).ask (.capDrop rs1) {}

/-- CAP_NARROW (R177). -/
def execCapNarrow (rs1 rs2 : Reg) (s : State) : Out :=
  onCur s fun b =>
    let v := b.gen.rd rs1
    let p := b.gen.rd rs2
    if v.toNat / 2 ^ 6 ≠ 0 then b.fault cOperand v
    else if p.toNat / 2 ^ 4 ≠ 0 then b.fault cOperand p
    else match b.caps.find? v.toNat with
    | none => b.fault cCapability (slotWord v.toNat)
    | some c =>
      if v = 63 then b.fault cCapability (slotWord 63)
      else if !b.memoryDone then b.poll (.capNarrow rs1 rs2)
      else (({ b with caps := b.caps.put v.toNat { c with rights := c.rights &&& p.extractLsb' 0 4 } } : Bay).unlook v.toNat).retire

/-- CAPABILITY_WAIT_DONE (R172). -/
def execCapabilityWaitDone (bay : BayNo) (s : State) : Out :=
  onWaiting s bay fun i s =>
    if !(s.bay bay).memoryDone then none
    else match i with
    | .capXfer a b => some (execCapXfer a b s)
    | .capDrop a => some (execCapDrop a s)
    | .capNarrow a b => some (execCapNarrow a b s)
    | _ => none

/-- CAP.INFO item 0 (R178). -/
def capInfoWord (c : Cap) (f : Buf) : Word :=
  1#1 ++ (if f.host.isSome then 1#1 else 0#1) ++ f.pg2m ++ f.pin ++ c.rights ++ f.loft ++ 0#29 ++ c.buf

/-- CAP_INFO (R178). The size and the count of an empty slot are stated nowhere: a free value (log 3). -/
def execCapInfo (rd rs1 : Reg) (s : State) : Out :=
  let b := s.bay s.cur
  let v := b.gen.rd rs1
  let item := (v.extractLsb' 6 2).toNat
  if v.toNat / 2 ^ 8 ≠ 0 ∨ item = 3 then onCur s fun b => b.fault cOperand v
  else match b.capAt (v.extractLsb' 0 6).toNat with
  | none =>
    if item = 0 then onCur s fun b => b.retireWith rd 0
    else onCur s.draw.2 fun b => b.retireWith rd s.draw.1
  | some c =>
    let f := (s.buf? b.ctx c.buf).getD {}
    onCur s fun b => b.retireWith rd
      (if item = 0 then capInfoWord c f else if item = 1 then BitVec.ofNat 64 f.size else zext f.count)

/-! ### Tensor descriptors (R179 to R182) -/

/-- The descriptor table's buffer id. -/
def descBuf : BufId := 0xFFFFFE

/-- The 24 words of a descriptor from its bytes. -/
def descOf (bs : List Byte) : Desc := (List.range 24).map fun k => BitVec.ofNat 64 (leNat ((bs.drop (8 * k)).take 8))

/-- The descriptor cache with one entry more; at 64 entries the lowest id goes (R181; log 19). -/
def dcachePut (m : Tab Desc) (id : BitVec 12) (d : Desc) : Tab Desc :=
  Tab.putIn 64 m id.toNat d

/-- Reads a descriptor through the bay's cache, in class 15 (R181, R190). -/
def State.readDesc (s : State) (b : BayNo) (id : BitVec 12) : Desc × State :=
  match (s.bay b).dcache.find? id.toNat with
  | some d => (d, s)
  | none =>
    let r := s.load (shedOf b) 15 (s.bay b).ctx descBuf (192 * id.toNat) 192
    let d := descOf r.1
    (d, r.2.modBay b fun y => { y with dcache := dcachePut y.dcache id d })

/-- Writes one word of a descriptor, in class 15, through the cache (R181). -/
def State.writeDesc (s : State) (b : BayNo) (id : BitVec 12) (k : Nat) (v : Word) : State :=
  (s.store (shedOf b) 15 (s.bay b).ctx descBuf (192 * id.toNat + 8 * k) (leBytes v.toNat 8)).modBay b fun y =>
    match y.dcache.find? id.toNat with
    | some d => { y with dcache := y.dcache.put id.toNat (d.set k v) }
    | none => y

/-- The operand of the descriptor instructions: the tensor id and the word index (R182). -/
def tdOperand (v : Word) : BitVec 12 × Nat := (v.extractLsb' 0 12, (v.extractLsb' 12 5).toNat)
/-- Whether it breaks its layout. -/
def tdBad (v : Word) : Bool := decide (v.toNat / 2 ^ 17 ≠ 0) || decide (24 ≤ (tdOperand v).2)

/-- TD_SET (R182). -/
def execTdSet (rs1 rs2 : Reg) (s : State) : Out :=
  let b := s.bay s.cur
  let v := b.gen.rd rs1
  let t := tdOperand v
  if tdBad v ∨ t.2 < 2 then onCur s fun b => b.fault cOperand v
  else if !b.memoryIssued then onCur s fun b => b.poll (.tdSet rs1 rs2)
  else onCur (s.writeDesc s.cur t.1 t.2 (b.gen.rd rs2)) Bay.retire

/-- TD_GET (R182). -/
def execTdGet (rd rs1 : Reg) (s : State) : Out :=
  let v := (s.bay s.cur).gen.rd rs1
  let t := tdOperand v
  if tdBad v then onCur s fun b => b.fault cOperand v
  else
    let r := s.readDesc s.cur t.1
    onCur r.2 fun b => b.retireWith rd (r.1.getD t.2 0)

/-- TD_BIND (R182). -/
def execTdBind (rs1 rs2 : Reg) (s : State) : Out :=
  let b := s.bay s.cur
  let v := b.gen.rd rs1
  let a := b.gen.rd rs2
  let t := tdOperand v
  if tdBad v ∨ t.2 ≠ 0 then onCur s fun b => b.fault cOperand v
  else if addrMid a ≠ 0 then onCur s fun b => b.fault cOperand a
  else match b.capAt (addrSlot a) with
  | none => onCur s fun b => b.fault cCapability a
  | some c =>
    if !b.memoryIssued then onCur s fun b => b.poll (.tdBind rs1 rs2)
    else onCur ((s.writeDesc s.cur t.1 0 a).writeDesc s.cur t.1 1 (1#1 ++ 0#39 ++ c.buf)) Bay.retire

end Sys2Proof.Machine
end

