-- ==== Sys2Proof/Machine/Sync.lean ====
section
/-! DEFINITION. Barriers, rings, bounded waits, word faults, and the sync words of the queues (R187 to R223, R231 to
R236, R377 to R380, R400). -/
namespace Sys2Proof.Machine

/-! ### Barriers (R208 to R216) -/

/-- The barrier that a register names: bits [6:0], the rest zero, and one that the bay may use (R52, R210, R212). -/
def State.barrierReg (s : State) (b : BayNo) (v : Word) : Option Nat :=
  let n := (v.extractLsb' 0 7).toNat
  if v.toNat / 2 ^ 7 = 0 ∧ s.barrierOk b n then some n else none

/-- Clears every agent's wait count of a barrier: the bay's agents for a bay barrier, those of every bay of the shed
for a shed barrier (R212). -/
def Bay.clearWcnt (b : Bay) (n : Nat) : Bay :=
  [0, 1, 2, 3, 4, 5].foldl (fun b a => b.setWcnt a n 0) b

/-- The populated bays of a shed. -/
def State.shedBays (s : State) (shed : BitVec 4) : List BayNo :=
  ((List.range 16).map fun p => shed ++ BitVec.ofNat 4 p).filter s.populated

/-- BAR.INIT's effect (R212). -/
def State.initBarrier (s : State) (b : BayNo) (n : Nat) (exp : BitVec 16) : State :=
  let s1 := s.setBarrier b n { exp := exp, owner := (s.barrier b n).owner }
  (if n < 64 then [b] else s.shedBays (shedOf b)).foldl (fun s c => s.modBay c fun y => y.clearWcnt n) s1

/-- BAR_INIT (R212). -/
def execBarInit (rs1 rs2 : Reg) (s : State) : Out :=
  let g := (s.bay s.cur).gen
  let v := g.rd rs1
  let e := g.rd rs2
  if v.toNat / 2 ^ 7 ≠ 0 ∨ 95 < (v.extractLsb' 0 7).toNat then onCur s fun b => b.fault cOperand v
  else if e = 0 ∨ 65535 < e.toNat then onCur s fun b => b.fault cOperand e
  else match s.barrierReg s.cur v with
  | none => onCur s fun b => b.fault cOperand v
  | some n => onCur (s.initBarrier s.cur n (e.setWidth 16)) Bay.retire

/-- BAR_ARRIVE (R213). -/
def execBarArrive (rs1 : Reg) (s : State) : Out :=
  let v := (s.bay s.cur).gen.rd rs1
  match s.barrierReg s.cur v with
  | none => onCur s fun b => b.fault cOperand v
  | some n =>
    if (s.barrier s.cur n).exp = 0 then onCur s fun b => b.fault cOperand v
    else
      let s1 := s.release (shedOf s.cur) allClasses (barScope n)
      onCur (s1.setBarrier s.cur n ((s1.barrier s.cur n).arrive s.cur 0)) Bay.retire

/-- A barrier-wait record (R400): the count that the wait consumed is the waiter's own, advanced. -/
def waitRecord (now : Nat) (waited : W32) (used : BitVec 16) (v : Barrier) (eseq off : W32) (agent : Nat) (n : Nat)
    (c : CtxNo) (b : BayNo) : Nat :=
  now % 2 ^ 64 * 2 ^ 192 + waited.toNat * 2 ^ 160 + used.toNat * 2 ^ 144 + v.lastBay.toNat * 2 ^ 136 +
    v.lastAg.toNat * 2 ^ 128 + eseq.toNat * 2 ^ 96 + off.toNat * 2 ^ 64 + agent * 2 ^ 40 + n * 2 ^ 32 +
    c.toNat * 2 ^ 16 + b.toNat * 2 ^ 8 + 2

/-- Cycles waited, saturating at 32 bits. -/
def satW32 (n : Nat) : W32 := BitVec.ofNat 32 (min n (2 ^ 32 - 1))

/-- A satisfied wait of an agent of a bay: its wait count advances, it acquires, and the wait is logged
(R209, R214, R232, R400). -/
def State.consumeWait (s : State) (b : BayNo) (agent n : Nat) (waited eseq off : W32) : State :=
  let y := s.bay b
  let w := y.wcntOf agent n + 1
  let s1 := (s.setBay b (y.setWcnt agent n w)).acquire (shedOf b) allClasses (barScope n)
  s1.trace b y.ctx (waitRecord s.now waited w (s.barrier b n) eseq off agent n y.ctx b)

/-- stval of an expired BAR.WAIT (R223). -/
def barExpiry (v : Barrier) (n : Nat) : Word := 0x01#8 ++ v.arr ++ v.exp ++ v.gen ++ BitVec.ofNat 8 n

/-- BAR_WAIT (R214): one test. The operand is judged once; a wait whose barrier its context has lost goes on to its
limit (R396). -/
def execBarWait (rs1 rs2 : Reg) (s : State) : Out :=
  let b := s.bay s.cur
  let v := b.gen.rd rs1
  let own := (s.barrierReg s.cur v).isSome
  let n := (v.extractLsb' 0 7).toNat
  if !own && !b.gen.polls (.barWait rs1 rs2) then onCur s fun b => b.fault cOperand v
  else if own && waitOk (s.barrier s.cur n) (b.wcntOf 0 n) then
    onCur (s.consumeWait s.cur 0 n (satW32 b.gen.waited) b.eseq b.gen.off) Bay.retire
  else if (b.gen.rd rs2).toNat ≤ b.gen.waited then onCur s fun b => b.fault cExpired (barExpiry (s.barrier s.cur n) n)
  else onCur s fun b => b.poll (.barWait rs1 rs2)

/-- BAR_WAIT_SATISFIED (R214). -/
def execBarWaitSatisfied (bay : BayNo) (s : State) : Out :=
  onWaiting s bay fun i s =>
    match i with
    | .barWait rs1 rs2 =>
      match s.barrierReg bay ((s.bay bay).gen.rd rs1) with
      | some n => if waitOk (s.barrier bay n) ((s.bay bay).wcntOf 0 n) then some (execBarWait rs1 rs2 s) else none
      | none => none
    | _ => none

/-! ### Rings (R217 to R222) -/

/-- HEAD advances by one past a slot with no consumer left (R217). -/
def Ring.advance (r : Ring) : Ring :=
  if r.head ≠ r.tail ∧ Tab.get 0 r.cmask (r.head.toNat % 64) = 0 then { r with head := r.head + 1 } else r

/-- HEAD advances as far as it can: a ring has at most 64 slots in use. -/
def Ring.settle (r : Ring) : Nat → Ring
  | 0 => r
  | n + 1 => r.advance.settle n

/-- A ring as its agents find it (R217). -/
def State.ringNow (s : State) (b : BayNo) (n : Nat) : Ring := (s.ring b n).settle 64

/-- A cursor that has fallen behind HEAD is taken to HEAD (R220, R221). -/
def Ring.catchUp (r : Ring) (c : BitVec 16) : BitVec 16 :=
  if (r.tail - r.head).toNat < (c - r.head).toNat then r.head else c

/-- A cursor moves past slots that do not name position p, up to `stop`. -/
def Ring.seek (r : Ring) (p : Nat) (stop : BitVec 16) : Nat → BitVec 16 → BitVec 16
  | 0, c => c
  | n + 1, c =>
    if c ≠ stop ∧ (Tab.get 0 r.cmask (c.toNat % 64)).getLsbD p = false then r.seek p stop n (c + 1) else c

/-- RING_PUT (R219). A put whose ring its context has lost waits on (R396). -/
def execRingPut (rs1 rs2 : Reg) (s : State) : Out :=
  let b := s.bay s.cur
  let v := b.gen.rd rs1
  let n := (v.extractLsb' 0 3).toNat
  let m : BitVec 16 := v.extractLsb' 16 16
  let r := s.ringNow s.cur n
  let own := r.owner == some b.ctx
  if v.toNat / 2 ^ 32 ≠ 0 ∨ v.extractLsb' 3 13 ≠ 0 ∨ m = 0 ∨
      m &&& ~~~(s.liveMask (shedOf s.cur)) ≠ 0 ∨ (!own && !b.gen.polls (.ringPut rs1 rs2)) then
    onCur s fun b => b.fault cOperand v
  else if !own ∨ 64 ≤ (r.tail - r.head).toNat then onCur s fun b => b.poll (.ringPut rs1 rs2)
  else
    let s1 := (s.acquire (shedOf s.cur) allClasses 1).release (shedOf s.cur) allClasses 1
    let k := r.tail.toNat % 64
    onCur (s1.setRing s.cur n
      { r with val := r.val.put k (b.gen.rd rs2), cmask := r.cmask.put k m, tail := r.tail + 1 }) Bay.retire

/-- The ring that a register names: bits [2:0], the rest zero, owned by the context. -/
def State.ringReg (s : State) (b : BayNo) (v : Word) : Option Nat :=
  let n := (v.extractLsb' 0 3).toNat
  if v.toNat / 2 ^ 3 = 0 ∧ (s.ring b n).owner = some (s.bay b).ctx then some n else none

/-- stval of an expired RING.GET (R223). -/
def ringExpiry (r : Ring) (c : BitVec 16) (n : Nat) : Word := 0x02#8 ++ r.head ++ r.tail ++ c ++ BitVec.ofNat 8 n

/-- The ring with the get cursor of position p where RING.GET leaves it before it takes a slot. -/
def Ring.getCursor (r : Ring) (p : Nat) : BitVec 16 := r.seek p r.tail 64 (r.catchUp (Tab.get 0 r.cur p))

/-- RING_GET (R220): one test. The cursor moves with the get alone, since a wait that expires has no other effect (R7). The
operand is judged once; a get whose ring its context has lost goes on to its limit (R396). -/
def execRingGet (rd rs1 rs2 : Reg) (s : State) : Out :=
  let b := s.bay s.cur
  let v := b.gen.rd rs1
  let own := (s.ringReg s.cur v).isSome
  let n := (v.extractLsb' 0 3).toNat
  let p := (posOf s.cur).toNat
  let late := (b.gen.rd rs2).toNat ≤ b.gen.waited
  let r := s.ringNow s.cur n
  if !own then
    if !b.gen.polls (.ringGet rd rs1 rs2) then onCur s fun b => b.fault cOperand v
    else if late then onCur s fun b => b.fault cExpired (ringExpiry r (Tab.get 0 r.cur p) n)
    else onCur s fun b => b.poll (.ringGet rd rs1 rs2)
  else
    let c := r.getCursor p
    if c ≠ r.tail then
      onCur ((s.setRing s.cur n { r with cur := r.cur.put p (c + 1) }).acquire (shedOf s.cur) allClasses 1) fun b =>
        b.retireWith rd (Tab.get 0 r.val (c.toNat % 64))
    else if late then onCur s fun b => b.fault cExpired (ringExpiry r c n)
    else onCur s fun b => b.poll (.ringGet rd rs1 rs2)

/-- RING_GET_SATISFIED (R220). -/
def execRingGetSatisfied (bay : BayNo) (s : State) : Out :=
  onWaiting s bay fun i s =>
    match i with
    | .ringGet rd rs1 rs2 =>
      match s.ringReg bay ((s.bay bay).gen.rd rs1) with
      | some n =>
        let r := s.ringNow bay n
        if r.getCursor (posOf bay).toNat ≠ r.tail then some (execRingGet rd rs1 rs2 s) else none
      | none => none
    | _ => none

/-- RING_DONE (R221). A CUR behind HEAD counts as HEAD, as RING.GET would find it (log 65); a fault leaves DN as it was
(R7). -/
def execRingDone (rs1 : Reg) (s : State) : Out :=
  let b := s.bay s.cur
  let v := b.gen.rd rs1
  match s.ringReg s.cur v with
  | none => onCur s fun b => b.fault cOperand v
  | some n =>
    let p := (posOf s.cur).toNat
    let r := s.ringNow s.cur n
    let cur := r.catchUp (Tab.get 0 r.cur p)
    let d := r.seek p cur 64 (r.catchUp (Tab.get 0 r.dn p))
    if d = cur then onCur s fun b => b.fault cOperand v
    else
      let s1 := s.release (shedOf s.cur) allClasses 1
      let k := d.toNat % 64
      onCur (s1.setRing s.cur n
        { r with cmask := r.cmask.put k (Tab.get 0 r.cmask k &&& ~~~(BitVec.ofNat 16 (2 ^ p))), dn := r.dn.put p (d + 1) })
        Bay.retire

/-- RING_SLOT_FREED (R217, R221): HEAD advances past one freed slot; a RING.PUT that waits finds the room when it
executes again at its boundary. -/
def execRingSlotFreed (shed : BitVec 4) (ring : BitVec 3) (s : State) : Out :=
  .next (s.modShed shed fun d => { d with rings := d.rings.put ring.toNat (Tab.get {} d.rings ring.toNat).advance })

/-! ### Expired waits (R223) -/

/-- WAIT_EXPIRED: the cycle limit of a TWAIT, BAR.WAIT or RING.GET is reached; its last test decides. -/
def execWaitExpired (bay : BayNo) (s : State) : Out :=
  onWaiting s bay fun i s =>
    let g := (s.bay bay).gen
    match i with
    | .twait a b => if (g.rd b).toNat ≤ g.waited then some (execTwait a b s) else none
    | .barWait a b => if (g.rd b).toNat ≤ g.waited then some (execBarWait a b s) else none
    | .ringGet d a b => if (g.rd b).toNat ≤ g.waited then some (execRingGet d a b s) else none
    | _ => none

/-! ### Word faults (R377 to R380) -/

/-- The word-fault causes (R379). -/
def wIllegal : Nat := 1
def wUnallocated : Nat := 2
def wDescriptor : Nat := 3
def wCapability : Nat := 4
def wBounds : Nat := 5
def wHazard : Nat := 6
def wIndex : Nat := 7
def wRemote : Nat := 8

/-- What wfinfo names: nothing, a tensor and a linearised coordinate, or a tile and a linear position (R378). -/
inductive Where where
  | nothing
  | tensor (id : BitVec 12) (pos : Nat)
  | tile (h : Byte) (pos : Nat)
deriving DecidableEq, Repr

/-- wfinfo's fields. -/
def Where.fields : Where → BitVec 1 × BitVec 12 × BitVec 48
  | .nothing => (0, 0, 0)
  | .tensor id pos => (0, id, BitVec.ofNat 48 pos)
  | .tile h pos => (1, zextH h, BitVec.ofNat 48 pos)
where zextH (h : Byte) : BitVec 12 := h.setWidth 12

/-- Whether a word fault of queue q is recorded: none is held, or one of a higher queue in the same cycle (R380). -/
def Bay.records (b : Bay) (q : Nat) : Bool := !b.wf.valid || (b.wf.fresh && decide (q < b.wf.qid.toNat))

/-- A word fault of queue q (R377, R378), if it is recorded: of the faults of one cycle that of the lowest queue is
(R380). -/
def Bay.wordFault (b : Bay) (q : Nat) (e : Entry) (index : W32) (cause upc : Nat) (w : Where) : Bay :=
  if !b.records q then b
  else { b with wf := { valid := true, act := 0, cause := BitVec.ofNat 8 cause, npfx := BitVec.ofNat 2 e.pfx.length,
                        qid := BitVec.ofNat 3 q, index := index, word := e.w, eseq := e.eseq, off := e.off,
                        upc := BitVec.ofNat 32 upc, kind := w.fields.1, id := w.fields.2.1, pos := w.fields.2.2, fresh := true } }

/-- A word fault at judging: the word stands at the head with its micro-PC at its start. -/
def Bay.judgeFault (b : Bay) (q : Nat) (e : Entry) (cause : Nat) (w : Where) : Bay :=
  b.wordFault q e (b.queue q).issued cause 0 w

/-- Acts on the head of queue q of the current bay, if its queues may issue and it is a word. -/
def onHead (s : State) (q : Nat) (f : Entry → State → State) : Out :=
  let b := s.bay s.cur
  match b.head? q with
  | some e => if b.canIssue && e.kind == .word then .next (f e s) else .next s
  | none => .next s

/-! ### Sync words (R189, R231 to R236) -/

/-- The queue in which a sync word acts. -/
def State.q (s : State) : Nat := s.curQ.toNat

/-- Refuses a sync word at its head with "illegal word" (R236). -/
def State.badSync (s : State) (e : Entry) : State := s.modBay s.cur fun b => b.judgeFault s.q e wIllegal .nothing

/-- Whether every copy of a joined word is at its head with every word ahead of it completed (R189). -/
def Bay.joined (b : Bay) (mask : BitVec 5) (e : Entry) : Bool :=
  [0, 1, 2, 3, 4].all fun q =>
    !mask.getLsbD q || (b.idle q && ((b.head? q).map fun x => x.seqNo) == some e.seqNo)

/-- Every copy of a joined word leaves. -/
def Bay.leaveAll (b : Bay) (mask : BitVec 5) : Bay :=
  [0, 1, 2, 3, 4].foldl (fun b q => if mask.getLsbD q then b.leave q else b) b

/-- The lowest queue of a mask. -/
def lowestQ (mask : BitVec 5) : Nat := ([0, 1, 2, 3, 4].find? fun q => mask.getLsbD q).getD 0

/-- SY_NOP (R232). -/
def execSyNop (mask : BitVec 5) (s : State) : Out :=
  let _ := mask
  onHead s s.q fun _ s => s.modBay s.cur fun b => b.leave s.q

/-- A notify is recorded as its queue's last, with its provenance (R232). -/
def Queue.notify (v : Queue) (token : BitVec 19) (e : Entry) : Queue :=
  { v with ntok := token, noff := e.off, neseq := e.eseq }

/-- SY_NOTIFY (R232). -/
def execSyNotify (mask : BitVec 5) (token : BitVec 19) (s : State) : Out :=
  let _ := mask
  onHead s s.q fun e s =>
    if token = 0x7FFFF then s.badSync e
    else s.modBay s.cur fun b =>
      if b.idle s.q then (b.leave s.q).modQueue s.q fun v => v.notify token e else b

/-- The head of queue q has been judged: it waits from this cycle on (R236, R421). -/
def Bay.standHead (b : Bay) (q now : Nat) : Bay :=
  b.modQueue q fun v =>
    { v with ent := match v.ent with
      | e :: t => { e with since := some (e.since.getD now) } :: t
      | [] => [] }

/-- SY_ARRIVE (R232): once for all copies, LAST naming the lowest queue. The operand is judged once; a copy whose barrier
its context has lost stands (R396). -/
def execSyArrive (mask : BitVec 5) (n : BitVec 7) (s : State) : Out :=
  onHead s s.q fun e s =>
    let ok := s.barrierOk s.cur n.toNat && (s.barrier s.cur n.toNat).exp != 0
    if e.since.isNone && !ok then s.badSync e
    else if ok && (s.bay s.cur).joined mask e then
      let s1 := (s.release (shedOf s.cur) allClasses (barScope n.toNat)).modBay s.cur fun b => b.leaveAll mask
      s1.setBarrier s.cur n.toNat ((s1.barrier s.cur n.toNat).arrive s.cur (1 + lowestQ mask))
    else s.modBay s.cur fun b => b.standHead s.q s.now

/-- SY_WAIT (R232): each copy in its own queue. The operand is judged once, and from that cycle on the word waits
(R400; log 20); one whose barrier its context has lost stands (R396). -/
def execSyWait (mask : BitVec 5) (n : BitVec 7) (s : State) : Out :=
  let _ := mask
  onHead s s.q fun e s =>
    let ok := s.barrierOk s.cur n.toNat
    if e.since.isNone && !ok then s.badSync e
    else if ok && waitOk (s.barrier s.cur n.toNat) ((s.bay s.cur).wcntOf (1 + s.q) n.toNat) then
      (s.consumeWait s.cur (1 + s.q) n.toNat (satW32 (s.now - e.since.getD s.now)) e.eseq e.off).modBay s.cur fun b =>
        b.leave s.q
    else s.modBay s.cur fun b => b.standHead s.q s.now

/-- SY_RDV (R232). -/
def execSyRdv (mask : BitVec 5) (s : State) : Out :=
  onHead s s.q fun e s =>
    s.modBay s.cur fun b => if b.joined mask e then b.leaveAll mask else b

/-- SY_FENCE (R232). -/
def execSyFence (mask : BitVec 5) (scope : BitVec 3) (cls : BitVec 15) (s : State) : Out :=
  let _ := mask
  onHead s s.q fun e s =>
    if cls = 0 ∨ 5 ≤ scope.toNat then s.badSync e
    else if (s.bay s.cur).idle s.q then
      (s.fence (shedOf s.cur) (cls.setWidth 16) scope.toNat).modBay s.cur fun b => b.leave s.q
    else s

/-- SY_SLIP (R233): legal in vector bays only. A bay has one group, and a new one takes its place whichever queues it names
(DESIGN CHOICE, log 73). -/
def execSySlip (mask : BitVec 5) (depth : BitVec 4) (s : State) : Out :=
  onHead s s.q fun e s =>
    if bayKind s.cur ≠ 5 then s.badSync e
    else s.modBay s.cur fun b =>
      if b.joined mask e then
        let b1 := [0, 1, 2, 3, 4].foldl
          (fun b q => if mask.getLsbD q then b.modQueue q fun v => { v with rnd := 0 } else b) (b.leaveAll mask)
        { b1 with slipMask := mask, slipDepth := depth }
      else b

/-- Whether no member of the slip group lags queue q by more than the depth (R233); outside a group nothing holds. -/
def Bay.slipOk (b : Bay) (q : Nat) : Bool :=
  !b.slipMask.getLsbD q ||
    [0, 1, 2, 3, 4].all fun p => !b.slipMask.getLsbD p || decide ((b.queue q).rnd ≤ (b.queue p).rnd + b.slipDepth.toNat)

/-- Marks the head of queue q as held (R233). -/
def Bay.holdHead (b : Bay) (q : Nat) : Bay :=
  b.modQueue q fun v =>
    { v with rnd := v.rnd + 1,
             ent := match v.ent with
               | e :: t => { e with held := true } :: t
               | [] => [] }

/-- A held sy.round leaves if the group allows it. -/
def Bay.leaveRound (b : Bay) (q : Nat) : Bay := if b.slipOk q then b.leave q else b

/-- SY_ROUND (R233): the advance is made once; then the word leaves or is held. -/
def execSyRound (mask : BitVec 5) (s : State) : Out :=
  let _ := mask
  onHead s s.q fun e s =>
    s.modBay s.cur fun b =>
      if !b.slipMask.getLsbD s.q then b.leave s.q
      else if e.held then b.leaveRound s.q
      else if b.idle s.q then (b.holdHead s.q).leaveRound s.q
      else b

/-- SY_ROUND_LEAVE (R233). -/
def execSyRoundLeave (bay : BayNo) (q : QId) (s : State) : Out :=
  onBay s bay fun s => s.modBay bay fun b =>
    match b.head? q.toNat with
    | some e => if b.canIssue && e.held then b.leaveRound q.toNat else b
    | none => b

end Sys2Proof.Machine
end

