-- ==== Sys2Proof/Machine/Desc.lean ====
section
/-! DEFINITION. How engine words use tensors and tiles: descriptor fields and their judging, capabilities of engines,
element addresses, tile states at issue (R80, R90, R150, R151, R170, R179 to R181, R246). -/
namespace Sys2Proof.Machine

/-! ### Descriptor fields (R179) -/

namespace Desc
def w (d : Desc) (k : Nat) : Word := d.getD k 0
def slot (d : Desc) : Nat := ((Desc.w d 0).extractLsb' 58 6).toNat
def off (d : Desc) : Nat := ((Desc.w d 0).extractLsb' 0 48).toNat
def bound (d : Desc) : Bool := (Desc.w d 1).getLsbD 63
def buf (d : Desc) : BufId := (Desc.w d 1).extractLsb' 0 24
def hbase (d : Desc) : Byte := (Desc.w d 2).extractLsb' 28 8
def stream (d : Desc) : BitVec 16 := (Desc.w d 2).extractLsb' 12 16
def sen (d : Desc) : Bool := (Desc.w d 2).getLsbD 11
def hen (d : Desc) : Bool := (Desc.w d 2).getLsbD 10
def geom (d : Desc) : BitVec 2 := (Desc.w d 2).extractLsb' 8 2
def rank (d : Desc) : Nat := ((Desc.w d 2).extractLsb' 4 4).toNat
def fmt (d : Desc) : Fmt := (Desc.w d 2).extractLsb' 0 4
def dim (d : Desc) (k : Nat) : Nat := ((Desc.w d (3 + k / 2)).extractLsb' (32 * (k % 2)) 32).toNat
def str (d : Desc) (k : Nat) : Int := ((Desc.w d (7 + k)).extractLsb' 0 48).toInt
def scb (d : Desc) : BitVec 12 := (Desc.w d 15).extractLsb' 16 12
def sca (d : Desc) : BitVec 12 := (Desc.w d 15).extractLsb' 0 12
def hist (d : Desc) : Word := Desc.w d 16
def side (d : Desc) : Word := Desc.w d 17
/-- The dims below RANK. -/
def dims (d : Desc) : List Nat := (List.range (Desc.rank d)).map (Desc.dim d)
end Desc

/-- Whether a reserved field of a descriptor is not zero (R180). -/
def descReserved (d : Desc) : Bool :=
  (Desc.w d 0).extractLsb' 48 10 != 0 || (Desc.w d 1).extractLsb' 24 39 != 0 || (Desc.w d 2).extractLsb' 36 28 != 0 ||
    (List.range 8).any (fun k => (Desc.w d (7 + k)).extractLsb' 48 16 != 0) ||
    (Desc.w d 15).extractLsb' 28 36 != 0 || (Desc.w d 15).extractLsb' 12 4 != 0 ||
    (List.range 6).any fun k => Desc.w d (18 + k) != 0

/-- Whether a descriptor is legal as far as its own fields show (R180, R80). -/
def descPlain (d : Desc) : Bool :=
  Desc.bound d && decide (1 ≤ Desc.rank d) && decide (Desc.rank d ≤ 8) && Desc.fmt d != 0xF && !descReserved d &&
    (Desc.dims d).all (fun n => n != 0) &&
    (List.range (Desc.rank d)).all (fun k => k == 0 || (Desc.str d k * fmtBits (Desc.fmt d)) % 8 == 0) &&
    (!Desc.hen d || (addrMid (Desc.hist d) == 0 && addrOff (Desc.hist d) % 16 == 0)) &&
    (!Desc.sen d || (addrMid (Desc.side d) == 0 && addrOff (Desc.side d) % 4 == 0))

/-- The scale ids that a descriptor's geometry uses (R246). -/
def descScales (d : Desc) : List (BitVec 12) :=
  match (Desc.geom d).toNat with
  | 1 | 3 => [Desc.sca d, Desc.scb d]
  | 2 => [Desc.sca d]
  | _ => []

/-- Judges the descriptors still to look at, each id once: legal when every descriptor that the first reaches through
scale ids is (R180). -/
def State.descsOk (s : State) (b : BayNo) : Nat → List (BitVec 12) → List (BitVec 12) → Bool × State
  | 0, _, _ => (true, s)
  | _ + 1, [], _ => (true, s)
  | n + 1, id :: todo, seen =>
    if seen.contains id then s.descsOk b n todo seen
    else
      let r := s.readDesc b id
      if !descPlain r.1 then (false, r.2) else r.2.descsOk b n (descScales r.1 ++ todo) (id :: seen)

/-- Reads and judges a descriptor (R180, R181). -/
def State.judgeDesc (s : State) (b : BayNo) (id : BitVec 12) : Desc × Bool × State :=
  let r := s.readDesc b id
  let k := r.2.descsOk b 16384 [id] []
  (r.1, k.1, k.2)

/-! ### Capabilities and addresses (R170, R179) -/

/-- Whether a bay's slot holds a capability to a buffer with the rights needed (R170). -/
def Bay.engineCap (b : Bay) (slot : Nat) (buf : BufId) (need : BitVec 4) : Bool :=
  match b.capAt slot with
  | some c => c.buf == buf && c.rights &&& need == need
  | none => false

/-- Whether a histogram or sidecar address names a buffer that increments may reach (R170). -/
def State.sideCap (s : State) (b : BayNo) (a : Word) : Bool :=
  match (s.bay b).capAt (addrSlot a) with
  | some c => c.rights.getLsbD 1 && !s.isHost (s.bay b).ctx c.buf
  | none => false

/-- The buffer that a slot of a bay names. -/
def Bay.slotBuf (b : Bay) (slot : Nat) : BufId := ((b.capAt slot).map fun c => c.buf).getD 0

/-- The bit position of an element in its buffer: OFF and Σ ik × STRk in bits of the format (R179). -/
def descBit (d : Desc) (idx : List Int) : Int :=
  8 * (Desc.off d : Int) + ((List.range idx.length).map fun k => idx.getD k 0 * Desc.str d k).sum * fmtBits (Desc.fmt d)

/-- The coordinate of an element, linearised by R90. -/
def descCoord (d : Desc) (idx : List Int) : Nat := linearCoord (Desc.dims d) idx 1 0

/-- Whether an index lies within the dims (R306). -/
def descInside (d : Desc) (idx : List Int) : Bool :=
  (List.range (Desc.rank d)).all fun k => decide (0 ≤ idx.getD k 0) && decide (idx.getD k 0 < Desc.dim d k)

/-- Whether an element lies within its buffer, the cause of the word fault if not: beyond the size "bounds", out of
reach "remote" (R170, R407). A position below 0, which a negative stride can give, is "bounds" as well (R308; DESIGN CHOICE,
log 72). -/
def State.elemFault (s : State) (c : CtxNo) (d : Desc) (idx : List Int) : Option Nat :=
  let p := descBit d idx
  let size : Int := s.bufSize c (Desc.buf d)
  if p < 0 ∨ 8 * size < p + fmtBits (Desc.fmt d) then some wBounds
  else if s.unreachable c (Desc.buf d) then some wRemote
  else none

/-- The bits of a tensor element, read in a class by an engine word of a bay; an access that meets a watchpoint makes
the bay stop after it (R401). -/
def State.loadElem (s : State) (b : BayNo) (cls : Nat) (d : Desc) (idx : List Int) : Nat × State :=
  let c := (s.bay b).ctx
  let p := (descBit d idx).toNat
  let w := fmtBits (Desc.fmt d)
  let n := (p % 8 + w + 7) / 8
  let r := s.load (shedOf b) cls c (Desc.buf d) (p / 8) n
  (leNat r.1 / 2 ^ (p % 8) % 2 ^ w, r.2.afterEng b c (Desc.buf d) (p / 8) n cls true false)

/-- Writes the bits of a tensor element. Sub-byte neighbours keep their bits. -/
def State.storeElem (s : State) (b : BayNo) (cls : Nat) (d : Desc) (idx : List Int) (v : Nat) : State :=
  let c := (s.bay b).ctx
  let p := (descBit d idx).toNat
  let w := fmtBits (Desc.fmt d)
  let n := (p % 8 + w + 7) / 8
  let bs := if w % 8 = 0 then leBytes v n
    else
      let s1 := s.touchN (shedOf b) cls c (Desc.buf d) (p / 8) n
      leBytes (putBits (leNat (s1.peekN (shedOf b) c (Desc.buf d) (p / 8) n)) (p % 8) w v) n
  (s.store (shedOf b) cls c (Desc.buf d) (p / 8) bs).afterEng b c (Desc.buf d) (p / 8) n cls false true

/-- What stops the read of one scale: an index outside the dims or the buffer, or no path to its home (R246, R407). -/
def State.scaleBad (s : State) (b : BayNo) (d : Desc) (i : List Int) : Option Nat :=
  if !descInside d i || (i.drop (Desc.rank d)).any (fun x => x != 0) then some wBounds
  else s.elemFault (s.bay b).ctx d (i.take (Desc.rank d))

/-- Reads one scale per index: the values, or the word fault's cause and the coordinate (R246). -/
def State.readScales (s : State) (b : BayNo) (cls : Nat) (d : Desc) :
    List (List Int) → Except (Nat × Nat) (List Nat × State)
  | [] => .ok ([], s)
  | i :: t =>
    match s.scaleBad b d i with
    | some c => .error (c, descCoord d i)
    | none =>
      let r := s.loadElem b cls d (i.take (Desc.rank d))
      match r.2.readScales b cls d t with
      | .error e => .error e
      | .ok q => .ok (r.1 :: q.1, q.2)

/-! ### Tiles at issue (R151) -/

/-- The first tile of a word that is unallocated, or whose marker the word's own queue has passed. -/
def Bay.missing (b : Bay) (q : Nat) (hs : List Byte) : Option Byte :=
  hs.find? fun h => (b.tile h).alloc == 0 || (b.tile h).passed.getLsbD q

/-- Whether a tile is ready. -/
def Bay.ready (b : Bay) (h : Byte) : Bool := (b.tile h).state == 2

/-- The descriptor of the key tensor that a tile recorded, read at issue (R90, R181). No rule judges it for the word that
only takes its key from it, so its dims and stream are used as they stand (DESIGN CHOICE, log 64). -/
def State.keyDesc (s : State) (b : BayNo) (h : Byte) : Option Desc × State :=
  let t := (s.bay b).tile h
  if t.keyv = 1 then
    let r := s.readDesc b t.td
    (some r.1, r.2)
  else (none, s)

/-- The first check of a list that fails: its cause and what wfinfo names. -/
def firstFail : List (Bool × Nat × Where) → Option (Nat × Where)
  | [] => none
  | (ok, c, w) :: t => if ok then firstFail t else some (c, w)

/-- A word leaves the head of its queue and issues (R384): the entry and its index. -/
def State.issueHead (s : State) (q : Nat) : State := s.modBay s.cur fun b => b.leave q

/-- Raises a word fault at judging in the current bay. -/
def State.judged (s : State) (q : Nat) (e : Entry) (f : Nat × Where) : State :=
  s.modBay s.cur fun b => b.judgeFault q e f.1 f.2

/-- Whether executing words stand still: a word fault is held or the bay is stopped (R377, R399). -/
def Bay.halted (b : Bay) : Bool := b.wf.valid || b.debugStop

end Sys2Proof.Machine
end

