-- ==== Sys2Proof/Machine/Matrix.lean ====
section
/-! DEFINITION. The matrix engine: the pairing, accumulator sets, the weight buffer, array words and port words
(R26, R92 to R98, R237 to R268). -/
namespace Sys2Proof.Machine

/-! ### The pairing (R26, R237, R238) -/

/-- The exact value of an operand element (R238): with SO, integers other than QN4 take the latched signedness. -/
def operandVal (f : Fmt) (so sgn : BitVec 1) (x : Nat) : Val :=
  if so = 1 ∧ fmtIsInt f ∧ f ≠ Fmt.qn4 then
    (if sgn = 1 then Val.ofInt (sint (fmtBits f) x) else Val.ofInt ((x % 2 ^ fmtBits f : Nat) : Int))
  else decodeVal f x

/-! ### Accumulator sets (R240, R241) -/

/-- Clearing with extents and format (R240). -/
def AccSet.clear (m1 n1 : BitVec 7) (afmt : BitVec 1) : AccSet := { val := [], afmt := afmt, ms1 := m1, ns1 := n1 }
/-- Replaces a set. -/
def Mx.setAcc (m : Mx) (k : BitVec 1) (a : AccSet) : Mx := if k = 0 then { m with acc0 := a } else { m with acc1 := a }
/-- Extents of a set. -/
def AccSet.ms (a : AccSet) : Nat := a.ms1.toNat + 1
def AccSet.ns (a : AccSet) : Nat := a.ns1.toNat + 1
/-- The format of a set's elements. -/
def accFmt (afmt : BitVec 1) : Fmt := if afmt = 0 then Fmt.fp32 else Fmt.i32

/-- The elements of an m × n grid, listed by 128 × i + j, zeros unlisted. -/
def gridTab (m n : Nat) (f : Nat → Nat → W32) : Tab W32 :=
  (List.range m).flatMap fun i => (List.range n).filterMap fun j => if f i j = 0 then none else some (128 * i + j, f i j)

/-- Sets an element of a table that lists no zeros. -/
def putNonzero (v : Tab W32) (k : Nat) (x : W32) : Tab W32 := if x = 0 then v.erase k else v.put k x

/-- Applies f to the matrix engine of a bay. -/
def State.modMx (s : State) (b : BayNo) (f : Mx → Mx) : State := s.modBay b fun y => { y with mx := f y.mx }

/-- The matrix engine's state after the reset of R242. -/
def Mx.reset : Mx := {}

/-! ### What an array word reads (R239, R247, R255, R258) -/

/-- The fields shared by the multiplying words: pairing, set, OVW, class of scale reads. -/
structure MulWord where
  p : MxPair
  set : BitVec 1
  ovw : BitVec 1
  cl : BitVec 4
deriving DecidableEq, Repr

/-- The shared fields of an array word that multiplies. -/
def mulWord? : Instr → Option MulWord
  | .mxMma p set ovw cl _ _ => some ⟨p, set, ovw, cl⟩
  | .mxMmw p set ovw _ cl _ => some ⟨p, set, ovw, cl⟩
  | .mxMmh p _ set ovw cl _ _ => some ⟨p, set, ovw, cl⟩
  | _ => none

/-- G and kd of a pairing. -/
def pairGroups (p : MxPair) : Nat := p.g.toNat
def pairDepth (p : MxPair) : Nat := pairKd p.fa p.fb

/-- An element of A in panels of 128 rows (R239). -/
def State.panelA (s : State) (b : BayNo) (t : Tile) (f : Fmt) (so sgn : BitVec 1) (i k : Nat) : Val :=
  operandVal f so sgn (s.tileElem b t (k / t.cols * 128 + i) (k % t.cols))
/-- An element of B in panels of 128 columns (R239). -/
def State.panelB (s : State) (b : BayNo) (t : Tile) (f : Fmt) (so sgn : BitVec 1) (k j : Nat) : Val :=
  operandVal f so sgn (s.tileElem b t (k % t.rows) (k / t.rows * 128 + j))
/-- An element of the weight buffer; rows at or above WHI read +0 (R255). A row below WHI that no load wrote holds element bits
0, which under QN4 is code 0 (DESIGN CHOICE, log 71). -/
def Weights.elem (w : Weights) (row col : Nat) : Val :=
  if w.hi ≤ row then .num false 0 0 else operandVal w.fmt w.so w.sb (Tab.get 0 w.data (128 * row + col)).toNat

/-- The window fields of mx.mmh, as numbers (R257). -/
def winOw (w : MxWin) : Nat := w.ow1.toNat + 1
def winWw (w : MxWin) : Nat := w.ww1.toNat + 1
def winRy (w : MxWin) : Nat := w.ry1.toNat + 1
def winRx (w : MxWin) : Nat := w.rx1.toNat + 1
def winDil (w : MxWin) : Nat := w.dil1.toNat + 1

/-- opA of mx.mmh (R258): c channels for each tap. -/
def State.haloA (s : State) (b : BayNo) (t : Tile) (f : Fmt) (so sgn : BitVec 1) (w : MxWin) (c i k : Nat) : Val :=
  let tap := k / c
  let row := (i / winOw w + tap / winRx w * winDil w) * winWw w + i % winOw w + tap % winRx w * winDil w
  operandVal f so sgn (s.tileElem b t row (k % c))

/-- opA of an array word. -/
def State.opA (s : State) (b : BayNo) (j : MxJob) (i k : Nat) : Val :=
  let y := s.bay b
  match j.instr with
  | .mxMma p _ _ _ ta _ => s.panelA b (y.tile ta) p.fa p.so j.cfg.sa i k
  | .mxMmw p _ _ _ _ ta => s.panelA b (y.tile ta) p.fa p.so j.cfg.sa i k
  | .mxMmh p w _ _ _ tx _ =>
    s.haloA b (y.tile tx) p.fa p.so j.cfg.sa w (pairGroups p * pairDepth p / (winRy w * winRx w)) i k
  | _ => .num false 0 0
/-- opB of an array word. -/
def State.opB (s : State) (b : BayNo) (j : MxJob) (k c : Nat) : Val :=
  let y := s.bay b
  match j.instr with
  | .mxMma p _ _ _ _ tb => s.panelB b (y.tile tb) p.fb p.so j.cfg.sb k c
  | .mxMmh p _ _ _ _ _ tb => s.panelB b (y.tile tb) p.fb p.so j.cfg.sb k c
  | .mxMmw _ _ _ kb _ _ => y.mx.w.elem (kb.toNat * 64 + k) c
  | _ => .num false 0 0

/-! ### One K-group (R97, R98, R253) -/

/-- The value of an E8M0 scale byte (R94). -/
def e8m0 (x : Nat) : Val := if x % 256 = 255 then .nan else .num false 1 ((x % 256 : Nat) - 127 : Int)

/-- The group sum as one addend: the sum of the products times the two scales, a zero carrying − only when every
scaled product is −0 (R97, R98). For kx.sddmm with MUL = 1 the old value stands for the scale: the sum's special values and
signs follow it in the same way (DEDUCED, log 71). -/
def groupAddend (g : Sum) (sa sb : Val) : Sum :=
  match mulVal sa sb with
  | none => { g with inv := true }
  | some .nan => { g with nanin := true }
  | some (.inf neg) =>
    if g.isNaN then g
    else if g.pinf || g.ninf then { g with pinf := g.ninf == neg, ninf := g.ninf != neg, m := 0 }
    else if g.m = 0 then { g with inv := true }
    else { g with pinf := decide (0 < g.m) != neg, ninf := decide (0 < g.m) == neg, m := 0 }
  | some (.num neg m e) =>
    if m = 0 ∧ (g.pinf || g.ninf) then { g with inv := true }
    else
      { g with pinf := if neg then g.ninf else g.pinf, ninf := if neg then g.pinf else g.ninf,
               anyPos := if neg then g.anyNeg else g.anyPos, anyNeg := if neg then g.anyPos else g.anyNeg,
               m := g.m * (if neg then -(m : Int) else m), e := g.e + e }

/-- An accumulator element after a group: exact sum, one rounding under RNE for FP32; saturated or wrapped for I32
(R97). -/
def accumulate (afmt sat : BitVec 1) (acc : W32) (g : Sum) : Res :=
  if afmt = 0 then
    let a := ({} : Sum).add (decodeVal Fmt.fp32 acc.toNat)
    let t : Sum :=
      { nanin := a.nanin || g.nanin, inv := a.inv || g.inv, pinf := a.pinf || g.pinf, ninf := a.ninf || g.ninf,
        anyPos := a.anyPos || g.anyPos, anyNeg := a.anyNeg || g.anyNeg,
        m := (addScaled a.m a.e g.m g.e).1, e := (addScaled a.m a.e g.m g.e).2 }
    t.finish Fmt.fp32 0 0
  else intRes Fmt.i32 (sat == 1) (intOf Fmt.i32 acc.toNat + g.m * (2 ^ g.e.toNat : Nat) / (2 ^ (-g.e).toNat : Nat))

/-- The products of group g for element (i, c), summed exactly. -/
def State.groupSum (s : State) (b : BayNo) (j : MxJob) (kd g i c : Nat) : Sum :=
  (List.range kd).foldl (fun t k => t.addProd (s.opA b j i (g * kd + k)) (s.opB b j (g * kd + k) c)) {}

/-- One as an exact value. -/
def oneVal : Val := .num false 1 0

/-- The scale indices of a group: one per row of A or column of B (R246). -/
def groupIdx (w : MulWord) (g n : Nat) : List (List Int) :=
  (List.range n).map fun (i : Nat) => [((g * pairDepth w.p / 32 : Nat) : Int), (i : Int)]

/-- The scales of A for a group: one per row, or none under G0 (R94, R246). -/
def State.scalesA (s : State) (b : BayNo) (j : MxJob) (w : MulWord) (g m : Nat) :
    Except (Nat × Nat) (List Nat × State) :=
  if w.p.ga2 = 1 then s.readScales b w.cl.toNat j.descA (groupIdx w g m) else .ok ([], s)
/-- The scales of B for a group: one per column. -/
def State.scalesB (s : State) (b : BayNo) (j : MxJob) (w : MulWord) (g n : Nat) :
    Except (Nat × Nat) (List Nat × State) :=
  if w.p.gb2 = 1 then s.readScales b w.cl.toNat j.descB (groupIdx w g n) else .ok ([], s)

/-- The stored block scale that a group of mx.mmw reads (R255). -/
def weightScale (m : Mx) (j : MxJob) (g c : Nat) : WScale :=
  match j.instr with
  | .mxMmw p _ _ kb _ _ =>
    if m.w.g1 = 1 then Tab.get {} m.w.scale (128 * ((kb.toNat * 64 + g * pairDepth p) / 64) + c) else {}
  | _ => {}

/-- The scales that a group of m rows and n columns reads, A's before B's, or the fault of a read: cause, scale tensor,
coordinate (R246). -/
def State.readGroup (s : State) (b : BayNo) (j : MxJob) (w : MulWord) (g m n : Nat) :
    Except (Nat × BitVec 12 × Nat) ((List Nat × List Nat) × State) :=
  match s.scalesA b j w g m with
  | .error e => .error (e.1, j.idA, e.2)
  | .ok ra =>
    match ra.2.scalesB b j w g n with
    | .error e => .error (e.1, j.idB, e.2)
    | .ok rb => .ok ((ra.1, rb.1), rb.2)

/-- The scales of a group at its retirement: those it entered the array with, where it is known to have entered, else read
now (R244). -/
def State.groupScales (s : State) (b : BayNo) (j : MxJob) (w : MulWord) (g m n : Nat) :
    Except (Nat × BitVec 12 × Nat) ((List Nat × List Nat) × State) :=
  match j.held with
  | h :: _ => .ok (h, s)
  | [] => s.readGroup b j w g m n

/-- One K-group at its retirement: every element of the set, the pending flags and GC (R253), or the fault of a scale
read: cause, scale tensor, coordinate. -/
def State.retireGroup (s : State) (b : BayNo) (j : MxJob) (w : MulWord) (g : Nat) :
    Except (Nat × BitVec 12 × Nat) State :=
  let a := (s.bay b).mx.set w.set
  match s.groupScales b j w g a.ms a.ns with
  | .error e => .error e
  | .ok ((la, lb), s1) =>
    let mx := (s1.bay b).mx
    let cell (i c : Nat) : Res :=
      let ws := weightScale mx j g c
      let sa := if w.p.ga2 = 1 then e8m0 (la.getD i 0) else oneVal
      let sb := if w.p.gb2 = 1 then e8m0 (lb.getD c 0) else decodeVal Fmt.fp32 ws.bits.toNat
      let r := accumulate a.afmt w.p.sat (a.elem i c) (groupAddend (s1.groupSum b j (pairDepth w.p) g i c) sa sb)
      { r with flags := r.flags ||| ws.flags }
    let cells := (List.range a.ms).flatMap fun i => (List.range a.ns).map fun c => (128 * i + c, cell i c)
    let fl := cells.foldl (fun f e => f ||| e.2.flags) (0 : Byte)
    let a' := { a with
      val := cells.filterMap fun e => if e.2.bits = 0 then none else some (e.1, BitVec.ofNat 32 e.2.bits),
      gc := if a.gc = 0xFFFFFFFF then a.gc else a.gc + 1,
      pf := a.pf ||| fl }
    .ok (s1.modMx b fun m => m.setAcc w.set a')

/-! ### Judging (R239, R241, R246, R248, R251 to R266) -/

/-- The tiles that a matrix word names, in the order of its assembly form. -/
def mxTiles : Instr → List Byte
  | .mxMma _ _ _ _ ta tb => [ta, tb]
  | .mxMmw _ _ _ _ _ ta => [ta]
  | .mxMmh _ _ _ _ _ tx tb => [tx, tb]
  | .mxLdw _ _ _ _ _ tw => [tw]
  | .mxInit _ ti => [ti]
  | .mxDrain _ _ _ _ _ _ td => [td]
  | .mxRq f => [f.td, f.tr, f.tm, f.ts]
  | .mxSnap _ td => [td]
  | _ => []

/-- A check that a tile operand makes "illegal word". -/
def bad (ok : Bool) (h : Byte) : Bool × Nat × Where := (ok, wIllegal, .tile h 0)
/-- The same where no tile or tensor is the operand: a set, the weight buffer. -/
def badNone (ok : Bool) : Bool × Nat × Where := (ok, wIllegal, .nothing)

/-- R239 for A: k indices of a tile in panels of 128 rows, m rows. -/
def panelAOk (t : Tile) (k kd m : Nat) : Bool :=
  let p := (k - 1) / t.cols
  decide (p * 128 + m ≤ t.rows) && (p == 0 || t.cols % kd == 0)
/-- R239 for B. -/
def panelBOk (t : Tile) (k kd n : Nat) : Bool :=
  let p := (k - 1) / t.rows
  decide (p * 128 + n ≤ t.cols) && (p == 0 || t.rows % kd == 0)

/-- Extents and format of a set once every array word that has issued has cleared it: those of the last one with
OVW = 1, else the set's own (R240, R243; log 34). -/
def Mx.shape (m : Mx) (k : BitVec 1) : BitVec 7 × BitVec 7 × BitVec 1 :=
  m.arrays.foldl (fun f j => match mulWord? j.instr with
    | some w => if w.set = k ∧ w.ovw = 1 then (j.cfg.m1, j.cfg.n1, j.cfg.afmt) else f
    | none => f) ((m.set k).ms1, (m.set k).ns1, (m.set k).afmt)

/-- The format that applies to a multiplying word: the latched one, or its set's with OVW = 0. -/
def appliedFmt (m : Mx) (w : MulWord) : BitVec 1 := if w.ovw = 1 then m.cfg.afmt else (m.shape w.set).2.2

/-- R241 and the SAT rule of R251, which concern the set. -/
def setChecks (m : Mx) (w : MulWord) : List (Bool × Nat × Where) :=
  [badNone (w.ovw == 1 || m.shape w.set == (m.cfg.m1, m.cfg.n1, m.cfg.afmt)),
   badNone (!(w.p.sat == 1 && appliedFmt m w == 0))]

/-- An I32 set takes integers under G0 (R237, R253). -/
def i32Ok (m : Mx) (w : MulWord) (f : Fmt) (scaled : Bool) : Bool :=
  appliedFmt m w == 0 || (fmtIsInt f && !scaled)

/-- WCAP of R247. -/
def weightCap (f : Fmt) : Nat := 131072 / fmtBits f

/-- The window of mx.mmh fits its tile (R258); what its fields alone show is MxWin.ok. -/
def haloOk (t : Tile) (p : MxPair) (w : MxWin) (m : Nat) : Bool :=
  decide (pairGroups p * pairDepth p / (winRy w * winRx w) ≤ t.cols) &&
    decide (((m - 1) / winOw w + (winRy w - 1) * winDil w) * winWw w + (m - 1) % winOw w + (winRx w - 1) * winDil w < t.rows)

/-- Step 3 of R248: the checks of an entry against tiles, sets, the weight buffer and the latched configuration. mx.ldw takes
no I32 tile, since no pairing has an I32 operand (DEDUCED, log 71). -/
def Bay.mxChecks (b : Bay) (i : Instr) : List (Bool × Nat × Where) :=
  let m := b.mx
  let mm := m.cfg.m1.toNat + 1
  let nn := m.cfg.n1.toNat + 1
  match i with
  | .mxMma p set ovw cl ta tb =>
    let w : MulWord := ⟨p, set, ovw, cl⟩
    let k := pairGroups p * pairDepth p
    setChecks m w ++
      [bad (p.fa == (b.tile ta).fmt && panelAOk (b.tile ta) k (pairDepth p) mm && i32Ok m w p.fa (p.ga2 == 1)) ta,
       bad (p.fb == (b.tile tb).fmt && panelBOk (b.tile tb) k (pairDepth p) nn && i32Ok m w p.fb (p.gb2 == 1)) tb]
  | .mxMmw p set ovw kb cl ta =>
    let w : MulWord := ⟨p, set, ovw, cl⟩
    let k := pairGroups p * pairDepth p
    setChecks m w ++
      [bad (p.fa == (b.tile ta).fmt && panelAOk (b.tile ta) k (pairDepth p) mm && i32Ok m w p.fa (p.ga2 == 1)) ta,
       badNone (p.fb == m.w.fmt && p.so == m.w.so && decide (kb.toNat * 64 + k ≤ weightCap m.w.fmt) &&
         i32Ok m w p.fb (m.w.g1 == 1))]
  | .mxMmh p win set ovw cl tx tb =>
    let w : MulWord := ⟨p, set, ovw, cl⟩
    let k := pairGroups p * pairDepth p
    setChecks m w ++
      [bad (p.fa == (b.tile tx).fmt && haloOk (b.tile tx) p win mm && i32Ok m w p.fa (p.ga2 == 1)) tx,
       bad (p.fb == (b.tile tb).fmt && panelBOk (b.tile tb) k (pairDepth p) nn && i32Ok m w p.fb (p.gb2 == 1)) tb]
  | .mxLdw g1 so koff clr _ tw =>
    let t := b.tile tw
    let f := if clr = 1 then t.fmt else m.w.fmt
    [bad (decide (t.cols ≤ 128) && decide (koff.toNat * 64 + t.rows ≤ weightCap f) && t.fmt != Fmt.i32 &&
       (clr == 1 || (t.fmt == m.w.fmt && g1 == m.w.g1 && so == m.w.so)) &&
       (g1 == 0 || f == Fmt.i8 || f == Fmt.n8 || f == Fmt.i4 || f == Fmt.n4 || f == Fmt.qn4)) tw]
  | .mxInit _ ti =>
    let t := b.tile ti
    [bad (t.fmt == accFmt m.cfg.afmt && decide (mm ≤ t.rows) && decide (nn ≤ t.cols)) ti]
  | .mxDrain fd _ _ set _ _ td =>
    let t := b.tile td
    let a := m.set set
    [bad (fd == t.fmt && decide (a.ms ≤ t.rows) && decide (a.ns ≤ t.cols)) td]
  | .mxRq f =>
    let a := m.set f.set
    let td := b.tile f.td
    let tr := b.tile f.tr
    let tm := b.tile f.tm
    let ts := b.tile f.ts
    [badNone (a.afmt == 1),
     bad (td.fmt == (if f.osgn = 1 then Fmt.i8 else Fmt.n8) && decide (a.ms ≤ td.rows) && decide (a.ns ≤ td.cols)) f.td,
     bad (f.rsen == 0 || (tr.fmt == Fmt.i32 && decide (a.ms ≤ tr.rows))) f.tr,
     bad (tm.fmt == Fmt.i32 && decide (a.ns ≤ tm.cols)) f.tm,
     bad (ts.fmt == Fmt.n8 && decide (a.ns ≤ ts.cols)) f.ts]
  | .mxSnap set td =>
    let a := m.set set
    let t := b.tile td
    [bad (t.fmt == accFmt a.afmt && decide (a.ms ≤ t.rows) && decide (a.ns ≤ t.cols)) td]
  | _ => []

/-- A use of scales (R246): the tile whose TD is used, the geometry, and whether SCB is read too. -/
structure ScaleUse where
  tile : Byte
  geom : BitVec 2
deriving DecidableEq, Repr

/-- The scales that a matrix word uses, in the order of its operands. -/
def mxScales : Instr → List ScaleUse
  | .mxMma p _ _ _ ta tb => (if p.ga2 = 1 then [⟨ta, 2⟩] else []) ++ if p.gb2 = 1 then [⟨tb, 2⟩] else []
  | .mxMmw p _ _ _ _ ta => if p.ga2 = 1 then [⟨ta, 2⟩] else []
  | .mxMmh p _ _ _ _ tx tb => (if p.ga2 = 1 then [⟨tx, 2⟩] else []) ++ if p.gb2 = 1 then [⟨tb, 2⟩] else []
  | .mxLdw g1 _ _ _ _ tw => if g1 = 1 then [⟨tw, 1⟩] else []
  | .mxDrain _ _ g3 _ _ _ td => if g3 = 1 then [⟨td, 3⟩] else []
  | _ => []

/-- The formats that the scale tensors of a geometry must have (R246). -/
def scaleFmts (geom : BitVec 2) : List Fmt :=
  match geom.toNat with
  | 1 => [Fmt.n8, Fmt.fp32]
  | 2 => [Fmt.n8]
  | _ => [Fmt.fp32, Fmt.fp32]

/-- Judges one use of scales: the scale tensors' ids and descriptors, or the cause of the fault (R246, R170). The capability
check is made for the scale tensors' slots alone, not for the tensor recorded with the tile, of which only the descriptor is
used (DESIGN CHOICE, log 72). -/
def State.judgeScale (s : State) (b : BayNo) (u : ScaleUse) : Except Nat (List (BitVec 12 × Desc)) × State :=
  let t := (s.bay b).tile u.tile
  if t.keyv = 0 then (.error wDescriptor, s)
  else
    let r := s.judgeDesc b t.td
    if !r.2.1 || Desc.geom r.1 != u.geom then (.error wDescriptor, r.2.2)
    else
      let ids := descScales r.1
      let out := ids.foldl (fun (p : List (BitVec 12 × Desc) × State) id =>
        let q := p.2.readDesc b id
        (p.1 ++ [(id, q.1)], q.2)) (([] : List (BitVec 12 × Desc)), r.2.2)
      if out.1.map (fun e => Desc.fmt e.2) ≠ scaleFmts u.geom then (.error wDescriptor, out.2)
      else if !out.1.all (fun e => (out.2.bay b).engineCap (Desc.slot e.2) (Desc.buf e.2) 1) then (.error wCapability, out.2)
      else (.ok out.1, out.2)

/-- Judges every use of scales: "illegal descriptor" of any comes before "capability" of any (R248). -/
def State.judgeScales (s : State) (b : BayNo) (us : List ScaleUse) :
    Except (Nat × Where) (List (List (BitVec 12 × Desc))) × State :=
  let out := us.foldl (fun (p : List (Byte × Except Nat (List (BitVec 12 × Desc))) × State) u =>
    let q := p.2.judgeScale b u
    (p.1 ++ [(u.tile, q.1)], q.2)) (([] : List (Byte × Except Nat (List (BitVec 12 × Desc)))), s)
  let failing (c : Nat) : Option (Nat × Where) :=
    (out.1.find? fun e => match e.2 with
      | .error x => x == c
      | .ok _ => false).map fun e => (c, .tile e.1 0)
  match failing wDescriptor, failing wCapability with
  | some f, _ => (.error f, out.2)
  | none, some f => (.error f, out.2)
  | none, none => (.ok (out.1.filterMap fun e => match e.2 with
      | .ok l => some l
      | .error _ => none), out.2)

/-! ### Issue (R243) -/

/-- K-groups that may still be on their way through the array when the next array word issues (R243, R267). -/
def inFlight (w : MulWord) : Nat := (8 + pairCpg w.p.fa w.p.fb - 1) / pairCpg w.p.fa w.p.fb

/-- Whether every scale that a group uses can be read: a group enters the array behind its scale reads (R244, R245). -/
def State.groupReads (s : State) (b : BayNo) (j : MxJob) (w : MulWord) (g : Nat) : Bool :=
  (w.p.ga2 == 0 || (groupIdx w g (j.cfg.m1.toNat + 1)).all fun i => (s.scaleBad b j.descA i).isNone) &&
    (w.p.gb2 == 0 || (groupIdx w g (j.cfg.n1.toNat + 1)).all fun i => (s.scaleBad b j.descB i).isNone)

/-- Whether every group of an executing array word has entered the array, so that the word is no longer issuing (R243,
R244): once the next array word has issued, it stays so, with the scales read. -/
def State.entered (s : State) (b : BayNo) (j : MxJob) : Bool :=
  match mulWord? j.instr with
  | some w => !j.held.isEmpty || decide (pairGroups w.p ≤ j.upc + inFlight w) &&
      (List.range (pairGroups w.p - j.upc)).all fun k => s.groupReads b j w (j.upc + k)
  | none => false

/-- The groups left of the k-th executing array word have entered the array: their scales are read (R244). -/
def State.holdGroups (s : State) (b : BayNo) (k : Nat) : State :=
  match (s.bay b).mx.arrays[k]? with
  | none => s
  | some j =>
    match mulWord? j.instr with
    | none => s
    | some w =>
      if !j.held.isEmpty then s
      else
        let r := (List.range (pairGroups w.p - j.upc)).foldl
          (fun (p : List (List Nat × List Nat) × State) n =>
            match p.2.readGroup b j w (j.upc + n) (j.cfg.m1.toNat + 1) (j.cfg.n1.toNat + 1) with
            | .ok x => (p.1 ++ [x.1], x.2)
            | .error _ => p)
          (([] : List (List Nat × List Nat)), s)
        r.2.modMx b fun m => { m with arrays := m.arrays.set k { j with held := r.1 } }

/-- The groups left of every executing array word have entered the array, as the next array word issues (R243, R244). -/
def State.holdArrays (s : State) (b : BayNo) : State :=
  (List.range (s.bay b).mx.arrays.length).foldl (fun s k => s.holdGroups b k) s

/-- The set that a port word moves. -/
def portSet : Instr → Option (BitVec 1)
  | .mxInit s _ => some s
  | .mxZero s => some s
  | .mxDrain _ _ _ s _ _ _ => some s
  | .mxRq f => some f.set
  | .mxSnap s _ => some s
  | _ => none

/-- Whether an array word on a set is executing. -/
def Mx.arrayOn (m : Mx) (k : BitVec 1) : Bool :=
  m.arrays.any fun j => (mulWord? j.instr).any fun w => w.set == k
/-- Whether an mx.mmw is executing. -/
def Mx.mmwRuns (m : Mx) : Bool :=
  m.arrays.any fun j => match j.instr with
    | .mxMmw _ _ _ _ _ _ => true
    | _ => false

/-- The clearing that the first array word on a set makes before its first K-group, where its OVW is 1 and no earlier
word on the set still executes (R240, R253). -/
def Mx.clearFirst (m : Mx) (k : BitVec 1) : Mx :=
  match m.arrays.find? fun j => (mulWord? j.instr).any fun w => w.set == k with
  | some j =>
    if (mulWord? j.instr).any (fun w => w.ovw == 1) then m.setAcc k (AccSet.clear j.cfg.m1 j.cfg.n1 j.cfg.afmt) else m
  | none => m

/-- An array word joins the executing ones, and clears its set at once if it is the first on it. -/
def Mx.addArray (m : Mx) (w : MulWord) (j : MxJob) : Mx :=
  let m1 := { m with arrays := m.arrays ++ [j] }
  if m.arrayOn w.set then m1 else m1.clearFirst w.set

/-- An array word leaves; the next one on its set makes the clearing that waited for it. -/
def Mx.dropArray (m : Mx) (k : Nat) : Mx :=
  let m1 := { m with arrays := m.arrays.eraseIdx k }
  match (m.arrays[k]?).bind fun j => mulWord? j.instr with
  | some w => m1.clearFirst w.set
  | none => m1

/-- The further issue conditions of R243. -/
def State.mayIssue (s : State) (b : BayNo) (i : Instr) : Bool :=
  let m := (s.bay b).mx
  match i with
  | .mxCfg _ _ _ _ _ => true
  | .mxLdw _ _ _ _ _ _ => m.arrays.all (s.entered b) && !m.mmwRuns
  | .mxSnap _ _ => m.port.isNone
  | .mxInit s _ => m.port.isNone && !m.arrayOn s
  | .mxZero s => m.port.isNone && !m.arrayOn s
  | .mxDrain _ _ _ s _ _ _ => m.port.isNone && !m.arrayOn s
  | .mxRq f => m.port.isNone && !m.arrayOn f.set
  | _ =>
    match mulWord? i with
    | some w => m.arrays.all (s.entered b) && !m.port.any fun j => portSet j.instr == some w.set
    | none => false

/-- Starts a word whose judging succeeded: what it latches at issue, and its first effects. -/
def State.startMx (s : State) (e : Entry) (i : Instr) (index : W32) (sc : List (List (BitVec 12 × Desc))) : State :=
  let b := s.cur
  let y := s.bay b
  let m := y.mx
  let flat := sc.flatten
  let k := match i with
    | .mxDrain _ rnd _ _ _ _ td => if rnd = 5 then s.keyDesc b td else (none, s)
    | .mxRq f => if f.rnd = 5 then s.keyDesc b f.td else (none, s)
    | _ => (none, s)
  let first : BitVec 12 × Desc := flat.getD 0 (0, [])
  let second : BitVec 12 × Desc := flat.getD 1 (0, [])
  let onlyB := match i with
    | .mxMma p _ _ _ _ _ => p.ga2 == 0 && p.gb2 == 1
    | .mxMmh p _ _ _ _ _ _ => p.ga2 == 0 && p.gb2 == 1
    | _ => false
  let job : MxJob :=
    { ent := e, instr := i, cfg := m.cfg, idA := first.1, descA := first.2,
      idB := if onlyB then first.1 else second.1, descB := if onlyB then first.2 else second.2,
      key := k.1, index := index, acc := (portSet i).elim {} m.set }
  (if (portSet i).isNone then k.2.holdArrays b else k.2).modMx b fun m =>
    match i with
    | .mxLdw g1 so _ clr _ tw =>
      let m1 := if clr = 1 then { m with w := { fmt := (y.tile tw).fmt, so := so, sb := m.cfg.sb, g1 := g1 } } else m
      { m1 with arrays := m1.arrays ++ [job] }
    | .mxInit set _ =>
      { m.setAcc set (AccSet.clear m.cfg.m1 m.cfg.n1 m.cfg.afmt) with port := some job }
    | .mxDrain _ _ _ _ _ _ _ | .mxRq _ | .mxSnap _ _ => { m with port := some job }
    | _ =>
      match mulWord? i with
      | some w => m.addArray w job
      | none => m

/-- Judges and issues a matrix word at the head of mtx (R248, R421). -/
def State.issueMx (s : State) (e : Entry) (i : Instr) : State :=
  let b := s.bay s.cur
  if !i.wf then s.judged 0 e (wIllegal, .nothing)
  else match b.missing 0 (mxTiles i) with
  | some h => s.judged 0 e (wUnallocated, .tile h 0)
  | none =>
    if !(mxTiles i).all b.ready || !s.mayIssue s.cur i then s
    else match firstFail (b.mxChecks i) with
    | some f => s.judged 0 e f
    | none =>
      let r := s.judgeScales s.cur (mxScales i)
      match r.1 with
      | .error f => r.2.judged 0 e f
      | .ok sc => (r.2.issueHead 0).startMx e i b.mtx.issued sc

/-! ### Words -/

/-- MX_CFG (R250). -/
def execMxCfg (m1 n1 : BitVec 7) (afmt sa sb : BitVec 1) (s : State) : Out :=
  onHead s 0 fun _ s => (s.issueHead 0).modMx s.cur fun m => { m with cfg := ⟨m1, n1, afmt, sa, sb⟩ }

/-- MX_MMA (R253). -/
def execMxMma (p : MxPair) (set ovw : BitVec 1) (cl : BitVec 4) (ta tb : BitVec 8) (s : State) : Out :=
  onHead s 0 fun e s => s.issueMx e (.mxMma p set ovw cl ta tb)

/-- MX_MMW (R255). -/
def execMxMmw (p : MxPair) (set ovw : BitVec 1) (kb : BitVec 9) (cl : BitVec 4) (ta : BitVec 8) (s : State) : Out :=
  onHead s 0 fun e s => s.issueMx e (.mxMmw p set ovw kb cl ta)

/-- MX_MMH (R258). -/
def execMxMmh (p : MxPair) (w : MxWin) (set ovw : BitVec 1) (cl : BitVec 4) (tx tb : BitVec 8) (s : State) : Out :=
  onHead s 0 fun e s => s.issueMx e (.mxMmh p w set ovw cl tx tb)

/-- MX_LDW (R260). -/
def execMxLdw (g1 so : BitVec 1) (koff : BitVec 9) (clr : BitVec 1) (cl : BitVec 4) (tw : BitVec 8) (s : State) : Out :=
  onHead s 0 fun e s => s.issueMx e (.mxLdw g1 so koff clr cl tw)

/-- MX_INIT (R261). -/
def execMxInit (set : BitVec 1) (ti : BitVec 8) (s : State) : Out := onHead s 0 fun e s => s.issueMx e (.mxInit set ti)

/-- MX_ZERO (R261): the set is cleared with the latched extents and format. -/
def execMxZero (set : BitVec 1) (s : State) : Out :=
  onHead s 0 fun _ s =>
    if !s.mayIssue s.cur (.mxZero set) then s
    else (s.issueHead 0).modMx s.cur fun m => m.setAcc set (AccSet.clear m.cfg.m1 m.cfg.n1 m.cfg.afmt)

/-- MX_DRAIN (R263). -/
def execMxDrain (fd : BitVec 4) (rnd : BitVec 3) (g3 set zaft : BitVec 1) (cl : BitVec 4) (td : BitVec 8) (s : State) :
    Out :=
  onHead s 0 fun e s => s.issueMx e (.mxDrain fd rnd g3 set zaft cl td)

/-- MX_RQ (R265). -/
def execMxRq (f : MxRq) (s : State) : Out := onHead s 0 fun e s => s.issueMx e (.mxRq f)

/-- MX_SNAP (R266): the boundary is the last K-group retired at issue. -/
def execMxSnap (set : BitVec 1) (td : BitVec 8) (s : State) : Out := onHead s 0 fun e s => s.issueMx e (.mxSnap set td)

/-! ### Rows and groups (R244, R253, R260 to R267) -/

/-- A row of elements written into a tile, with what they raise (R105, R106). -/
def State.putRow (s : State) (b : BayNo) (h : Byte) (i n : Nat) (f : Nat → Res) : State :=
  let t := (s.bay b).tile h
  let rs := (List.range n).map f
  let s1 := (List.range n).foldl (fun s c => s.setTileElem b t i c (rs.getD c ⟨0, 0, 0⟩).bits) s
  s1.raiseTile b h (rs.foldl (fun a r => a ||| r.flags) 0) (rs.foldl (fun a r => a + r.satc) 0)

/-- What a drained element becomes (R95, R263): the product with its G3 scales is exact, the conversion single. A NaN that
0 × infinity produces raises NV alone, NANIN only where an operand was a NaN (DESIGN CHOICE, log 64). -/
def drainElem (fd : Fmt) (rnd keyed : Nat) (acc : Val) (r c : Option Nat) : Res :=
  let mul (v : Option Val) (x : Option Nat) : Option Val :=
    match v, x with
    | some v, some x => mulVal v (decodeVal Fmt.fp32 x)
    | v, none => v
    | none, _ => none
  let nan := acc.isNaN || (r.map fun x => (decodeVal Fmt.fp32 x).isNaN).getD false ||
    (c.map fun x => (decodeVal Fmt.fp32 x).isNaN).getD false
  match mul (mul (some acc) r) c with
  | some v => convert fd rnd keyed v
  | none => nanRes fd (flNV ||| flagIf nan flNANIN)

/-- The keyed bits of an element of a word's destination tile (R88, R90). -/
def MxJob.keyed (j : MxJob) (t : Tile) (i c : Nat) : Nat := keyedTile t j.key j.ent.seed j.ent.step i c

/-- Row UPC of a port word: the state after it, or the fault of a scale read. -/
def State.portRow (s : State) (b : BayNo) (j : MxJob) : Except (Nat × BitVec 12 × Nat) State :=
  let y := s.bay b
  let i := j.upc
  match j.instr with
  | .mxInit set ti =>
    .ok (s.modMx b fun m =>
      let a := m.set set
      let row : Tab W32 := (List.range a.ns).foldl
        (fun v c => putNonzero v (128 * i + c) (BitVec.ofNat 32 (s.tileElem b (y.tile ti) i c))) a.val
      m.setAcc set { a with val := row })
  | .mxDrain fd rnd g3 set _ cl td =>
    let a := y.mx.set set
    let t := y.tile td
    let acc (c : Nat) : Val := decodeVal (accFmt a.afmt) (a.elem i c).toNat
    if g3 = 0 then .ok (s.putRow b td i a.ns fun c => drainElem fd rnd.toNat (j.keyed t i c) (acc c) none none)
    else match s.readScales b cl.toNat j.descA [[(i : Int)]] with
    | .error e => .error (e.1, j.idA, e.2)
    | .ok ra =>
      match ra.2.readScales b cl.toNat j.descB ((List.range a.ns).map fun (c : Nat) => [(c : Int)]) with
      | .error e => .error (e.1, j.idB, e.2)
      | .ok rb =>
        .ok (rb.2.putRow b td i a.ns fun c =>
          drainElem fd rnd.toNat (j.keyed t i c) (acc c) (some (ra.1.getD 0 0)) (some (rb.1.getD c 0)))
  | .mxRq f =>
    let a := y.mx.set f.set
    let t := y.tile f.td
    .ok (s.putRow b f.td i a.ns fun c =>
      let v0 := intOf Fmt.i32 (a.elem i c).toNat
      let v := if f.rsen = 1 then v0 - f.z.toInt * intOf Fmt.i32 (s.tileElem b (y.tile f.tr) i 0) else v0
      let sh := min (s.tileElem b (y.tile f.ts) 0 c) 63
      let n := v * intOf Fmt.i32 (s.tileElem b (y.tile f.tm) 0 c) + f.oz.toInt * (2 ^ sh : Nat)
      roundTo (if f.osgn = 1 then Fmt.i8 else Fmt.n8) f.rnd.toNat (j.keyed t i c) (decide (n < 0)) n.natAbs
        (-(sh : Int)))
  | .mxSnap _ td =>
    .ok (s.putRow b td i j.acc.ns fun c => { bits := (j.acc.elem i c).toNat, flags := 0, satc := 0 })
  | _ => .ok s

/-- Rows of a port word: those of its set. -/
def MxJob.rows (j : MxJob) (m : Mx) : Nat :=
  match j.instr with
  | .mxSnap _ _ => j.acc.ms
  | _ => ((portSet j.instr).elim {} m.set).ms

/-- The end of a port word: pending flags are merged and ZAFT applied, and a snapshot's GCNT is set (R263, R265, R266). -/
def State.portEnd (s : State) (b : BayNo) (j : MxJob) : State :=
  let merge (td : Byte) (set zaft : BitVec 1) : State :=
    let a := (s.bay b).mx.set set
    let s1 := s.raiseTile b td a.pf 0
    s1.modMx b fun m => m.setAcc set (if zaft = 1 then AccSet.clear a.ms1 a.ns1 a.afmt else { a with pf := 0 })
  let s1 := match j.instr with
    | .mxDrain _ _ _ set zaft _ td => merge td set zaft
    | .mxRq f => merge f.td f.set f.zaft
    | .mxSnap _ td => s.modTile b td fun t =>
        { t with status := mkStatus (min j.acc.gc.toNat 16383) (stSatc t.status) (stFlags t.status ||| j.acc.pf) }
    | _ => s
  s1.modMx b fun m => { m with port := none }

/-- Raises the word fault of a stopped matrix word at its UPC (R244). -/
def State.mxFault (s : State) (b : BayNo) (j : MxJob) (f : Nat × BitVec 12 × Nat) : State :=
  s.modBay b fun y => y.wordFault 0 j.ent j.index f.1 j.upc (.tensor f.2.1 f.2.2)

/-- One row of the port word; the last one ends it. -/
def State.stepPort (s : State) (b : BayNo) : State :=
  match (s.bay b).mx.port with
  | none => s
  | some j =>
    match s.portRow b j with
    | .error f => s.mxFault b j f
    | .ok s1 =>
      let j1 := { j with upc := j.upc + 1 }
      if j1.rows (s1.bay b).mx ≤ j1.upc then s1.portEnd b j1 else s1.modMx b fun m => { m with port := some j1 }

/-- +0 of a weight format: QN4 holds it as code 7 (R81, R260). -/
def zeroBits (f : Fmt) : Nat := if f = Fmt.qn4 then 7 else 0

/-- A block scale of R93: F × c / 255, rounded once to FP32; the quotient is cut far below half a unit, so the sticky
bit decides it exactly. -/
def blockScale (f c : Nat) : WScale :=
  match decodeVal Fmt.fp32 f with
  | .nan => { bits := BitVec.ofNat 32 (canonNaN Fmt.fp32), flags := flNANIN }
  | .inf neg => { bits := BitVec.ofNat 32 (signPat Fmt.fp32 neg + (if c % 256 = 0 then 0 else infPat Fmt.fp32)), flags := 0 }
  | .num neg m e =>
    let n := m * (c % 256) * 2 ^ 64
    let r := roundTo Fmt.fp32 0 0 neg (n / 255) (e - 64) (decide (n % 255 ≠ 0))
    { bits := BitVec.ofNat 32 r.bits, flags := r.flags }

/-- Row UPC of an mx.ldw (R260). -/
def State.ldwRow (s : State) (b : BayNo) (j : MxJob) : Except (Nat × BitVec 12 × Nat) State :=
  match j.instr with
  | .mxLdw _ _ koff _ cl tw =>
    let y := s.bay b
    let t := y.tile tw
    let r := j.upc
    let w := y.mx.w
    let row := koff.toNat * 64 + r
    let data := (List.range 128).foldl (fun v c =>
      putNonzero v (128 * row + c) (BitVec.ofNat 32 (if c < t.cols then s.tileElem b t r c else zeroBits w.fmt))) w.data
    let done (s : State) (scale : Tab WScale) : State :=
      s.modMx b fun m => { m with w := { m.w with data := data, scale := scale, hi := max m.w.hi (row + 1) } }
    if w.g1 = 1 ∧ (r % 64 = 0 ∨ j.again) then
      match s.readScales b cl.toNat j.descA ((List.range t.cols).map fun (c : Nat) => [((r / 64 : Nat) : Int), (c : Int)]) with
      | .error e => .error (e.1, j.idA, e.2)
      | .ok ra =>
        match ra.2.readScales b cl.toNat j.descB
            ((List.range t.cols).map fun (c : Nat) => [((r / 16384 : Nat) : Int), (c : Int)]) with
        | .error e => .error (e.1, j.idB, e.2)
        | .ok rb =>
          .ok (done rb.2 ((List.range 128).foldl (fun v c =>
            v.put (128 * (koff.toNat + r / 64) + c)
              (if c < t.cols then blockScale (rb.1.getD c 0) (ra.1.getD c 0) else {})) w.scale))
    else .ok (done s w.scale)
  | _ => .ok s

/-- Replaces an executing array word, or drops it when it has run to its end. -/
def Mx.setArray (m : Mx) (k : Nat) (j : MxJob) (n : Nat) : Mx :=
  if n ≤ j.upc then m.dropArray k else { m with arrays := m.arrays.set k j }

/-- One row of the executing mx.ldw, the word behind the multiplies that still retire. -/
def State.stepLdw (s : State) (b : BayNo) : State :=
  let arrays := (s.bay b).mx.arrays
  let k := arrays.length - 1
  match arrays[k]? with
  | none => s
  | some j =>
    match j.instr with
    | .mxLdw _ _ _ _ _ tw =>
      match s.ldwRow b j with
      | .error f => s.mxFault b j f
      | .ok s1 => s1.modMx b fun m => m.setArray k { j with upc := j.upc + 1, again := false } ((s1.bay b).tile tw).rows
    | _ => s

/-- One K-group of the oldest array word. -/
def State.stepGroup (s : State) (b : BayNo) : State :=
  match (s.bay b).mx.arrays with
  | [] => s
  | j :: _ =>
    match mulWord? j.instr with
    | none => s
    | some w =>
      match s.retireGroup b j w j.upc with
      | .error f => s.mxFault b j f
      | .ok s1 => s1.modMx b fun m => m.setArray 0 { j with upc := j.upc + 1, held := j.held.tail } (pairGroups w.p)

/-- Whether the oldest array word's groups have all entered the array, and no fault holds it (R244). -/
def State.mustRetire (s : State) (bn : BayNo) : Bool :=
  let b := s.bay bn
  match b.mx.arrays with
  | [] => false
  | j :: _ => s.entered bn j && !(b.wf.valid && b.wf.qid == 0 && b.wf.index == j.index)

/-- Whether a group may retire: the bay's words do not stand still, or it has entered the array already and belongs to
no faulting word (R244). -/
def State.groupMoves (s : State) (b : BayNo) : Bool :=
  !(s.bay b).mx.arrays.isEmpty && (!(s.bay b).halted || s.mustRetire b)

/-- MX_GROUP_RETIRE (R253). -/
def execMxGroupRetire (bay : BayNo) (s : State) : Out :=
  onBay s bay fun s => if s.groupMoves bay then s.stepGroup bay else s

/-- Rows of the port word until it ends or stops. -/
def State.runPort (s : State) (b : BayNo) : Nat → State
  | 0 => s
  | n + 1 => if (s.bay b).halted || (s.bay b).mx.port.isNone then s else (s.stepPort b).runPort b n

/-- Whether the last array word is an mx.ldw. -/
def Mx.ldwRuns (m : Mx) : Bool :=
  match m.arrays.getLast? with
  | some j => (mulWord? j.instr).isNone
  | none => false

/-- The matrix words of a bay that goes on after a stop: mx.ldw reads its block scales again at its UPC (R260). -/
def Mx.resumed (m : Mx) : Mx := { m with arrays := m.arrays.map fun j => { j with again := true } }

/-- Rows of the mx.ldw until it ends or stops. -/
def State.runLdw (s : State) (b : BayNo) : Nat → State
  | 0 => s
  | n + 1 => if (s.bay b).halted || !(s.bay b).mx.ldwRuns then s else (s.stepLdw b).runLdw b n

/-- MX_LAST_ROW_WRITTEN (R267): the rows left of the port word, or of the mx.ldw, and its end. -/
def execMxLastRowWritten (bay : BayNo) (port : BitVec 1) (s : State) : Out :=
  onBay s bay fun s => if port = 1 then s.runPort bay 128 else s.runLdw bay 4096

end Sys2Proof.Machine
end

