-- ==== Sys2Proof/Machine/Special.lean ====
section
/-! DEFINITION. The special functions of R296, correctly rounded: reciprocals and roots by exact integer arithmetic,
the transcendental ones by enclosures in fixed-point arithmetic of growing precision. A value x is held as the
integer nearest x × 2^p; every operation below errs by at most a few units, every series by at most one unit a term,
and the enclosure allows 2^40 units (log 14). -/
namespace Sys2Proof.Machine.Special

/-- The integer square root of x < 4^n, one bit at a time from bit n − 1 down. -/
def isqrtFrom (x : Nat) : Nat → Nat → Nat
  | 0, r => r
  | n + 1, r =>
    let t := r + 2 ^ n
    isqrtFrom x n (if t * t ≤ x then t else r)

/-- floor(√x). -/
def isqrt (x : Nat) : Nat := isqrtFrom x (Nat.log2 x / 2 + 1) 0

/-- An inexact result's place: m × 2^e ≤ v < (m + 1) × 2^e, and whether v differs from m × 2^e. -/
structure Place where
  m : Nat
  e : Int
  sticky : Bool
deriving DecidableEq, Repr

/-- 1 / (m × 2^e), m ≠ 0. -/
def recip (m : Nat) (e : Int) : Place :=
  let k := Nat.log2 m + 64
  { m := 2 ^ k / m, e := -e - k, sticky := 2 ^ k % m != 0 }

/-- √(m × 2^e), m ≠ 0. -/
def root (m : Nat) (e : Int) : Place :=
  let odd := e % 2 != 0
  let m1 := (if odd then 2 * m else m) * 4 ^ 64
  let e1 := (if odd then e - 1 else e) / 2 - 64
  let r := isqrt m1
  { m := r, e := e1, sticky := r * r != m1 }

/-- 1 / √(m × 2^e), m ≠ 0. -/
def rootRecip (m : Nat) (e : Int) : Place :=
  let odd := e % 2 != 0
  let m1 := if odd then 2 * m else m
  let e1 := (if odd then e - 1 else e) / 2
  let k := Nat.log2 m1 + 64
  let r := isqrt (4 ^ k / m1)
  { m := r, e := -e1 - k, sticky := r * r * m1 != 4 ^ k }

/-! ### Fixed-point series -/

/-- The product of two fixed-point numbers. -/
def fmul (p : Nat) (a b : Int) : Int := a * b / (2 ^ p : Nat)

/-- Σ x^k / k! from a given term. -/
def expTerms (p : Nat) (x : Int) : Nat → Nat → Int → Int → Int
  | 0, _, _, acc => acc
  | n + 1, k, t, acc => expTerms p x n (k + 1) (fmul p t x / ((k + 1 : Nat) : Int)) (acc + t)

/-- e^x for 0 ≤ x < 1. -/
def fexp (p : Nat) (x : Int) : Int := expTerms p x (p / 2) 0 (2 ^ p : Nat) 0

/-- Σ t^(2k+1) / (2k+1), with alternating signs when alt. -/
def oddTerms (p : Nat) (t2 : Int) (alt : Bool) : Nat → Nat → Int → Int → Int
  | 0, _, _, acc => acc
  | n + 1, k, t, acc =>
    let term := t / ((2 * k + 1 : Nat) : Int)
    oddTerms p t2 alt n (k + 1) (fmul p t t2) (if alt && k % 2 == 1 then acc - term else acc + term)

/-- artanh t for |t| ≤ 1/3. -/
def fatanh (p : Nat) (t : Int) : Int := oddTerms p (fmul p t t) false p 0 t 0
/-- arctan (1/n). -/
def fatanInv (p n : Nat) : Int :=
  let t : Int := (2 ^ p : Nat) / (n : Int)
  oddTerms p (fmul p t t) true p 0 t 0

/-- ln 2. -/
def fln2 (p : Nat) : Int := 2 * fatanh p ((2 ^ p : Nat) / 3)
/-- π, by Machin's formula. -/
def fpi (p : Nat) : Int := 16 * fatanInv p 5 - 4 * fatanInv p 239

/-- Σ (−1)^j x^(2j+s) / (2j+s)! from a given term. -/
def trigTerms (p : Nat) (x2 : Int) : Nat → Nat → Int → Int → Int
  | 0, _, _, acc => acc
  | n + 1, k, t, acc =>
    trigTerms p x2 n (k + 2) (-(fmul p t x2) / (((k + 1) * (k + 2) : Nat) : Int)) (acc + t)

/-- sin x for |x| ≤ 1. -/
def fsin (p : Nat) (x : Int) : Int := trigTerms p (fmul p x x) (p / 4) 1 x 0
/-- cos x for |x| ≤ 1. -/
def fcos (p : Nat) (x : Int) : Int := trigTerms p (fmul p x x) (p / 4) 0 (2 ^ p : Nat) 0

/-- m × 2^e in fixed point, cut. -/
def ffix (p : Nat) (m : Nat) (e : Int) : Nat :=
  let s := e + p
  if 0 ≤ s then m * 2 ^ s.toNat else m / 2 ^ (-s).toNat

/-- The place of a positive irrational v = w × 2^(e − p) known to 2^40 units, where those units settle 62 bits. -/
def settle (p : Nat) (e : Int) (w : Int) : Option Place :=
  let lo := (w - 2 ^ 40).toNat
  let hi := (w + 2 ^ 40).toNat
  let s := Nat.log2 lo - 62
  if lo / 2 ^ s = hi / 2 ^ s ∧ 2 ^ 62 ≤ lo then some { m := lo / 2 ^ s, e := e - p + s, sticky := true } else none

/-- 2^(m × 2^e) for a positive or negative argument that is no integer. -/
def exp2At (p : Nat) (neg : Bool) (m : Nat) (e : Int) : Option Place :=
  let x : Int := if neg then -(ffix p m e : Int) else ffix p m e
  let i := x / (2 ^ p : Nat)
  settle p i (fexp p (fmul p (x - i * (2 ^ p : Nat)) (fln2 p)))

/-- |log2 (m × 2^e)| and its sign, for an argument that is no power of two. -/
def log2At (p : Nat) (m : Nat) (e : Int) : Option (Bool × Place) :=
  let k := Nat.log2 m
  let one : Int := (2 ^ p : Nat)
  let x : Int := ffix p m (-(k : Int))
  let ln := 2 * fatanh p ((x - one) * one / (x + one))
  let v := (e + k) * one + ln * one / fln2 p
  (settle p 0 (if v < 0 then -v else v)).map fun pl => (decide (v < 0), pl)

/-- The quadrant and the reduced argument of m × 2^e modulo π/2, with g guard bits. -/
def quadrant (p g : Nat) (m : Nat) (e : Int) : Int × Int :=
  let x : Int := ffix (p + g) m e
  let h := fpi (p + g) / 2
  let n := (2 * x + h) / (2 * h)
  (n, (x - n * h) / (2 ^ g : Nat))

/-- |sin| or |cos| of m × 2^e > 0 and the sign. -/
def trigAt (p : Nat) (cosine : Bool) (m : Nat) (e : Int) : Option (Bool × Place) :=
  let r := quadrant p (Nat.log2 m + (e + 140).toNat) m e
  let n := ((if cosine then r.1 + 1 else r.1) % 4).toNat
  let v0 := if n % 2 = 0 then fsin p r.2 else fcos p r.2
  let v := if 2 ≤ n then -v0 else v0
  (settle p 0 (if v < 0 then -v else v)).map fun pl => (decide (v < 0), pl)

/-- tanh (m × 2^e) for a positive argument below 64. -/
def tanhAt (p : Nat) (m : Nat) (e : Int) : Option Place :=
  let one : Int := (2 ^ p : Nat)
  let x : Int := 2 * (ffix p m e : Int)
  let y := x * one / fln2 p
  let i := y / one
  let u := fexp p (fmul p (y - i * one) (fln2 p)) -- e^(2a) = u × 2^i
  let s := u * (2 ^ i.toNat : Nat)
  settle p 0 ((s - one) * one / (s + one))

/-- The first precision that settles. -/
def firstSome {α : Type} (f : Nat → Option α) : List Nat → Option α
  | [] => none
  | p :: ps => match f p with
    | some a => some a
    | none => firstSome f ps

/-- The precisions tried: the least FP32 magnitude is 2^−149, whose cube must stand out. -/
def precisions : List Nat := [256, 512, 1024]

/-- Rounds a place, or a free value where no precision settled. -/
def roundPlace (op : Nat) (f : Fmt) (mode keyed x : Nat) (neg : Bool) : Option Place → Res
  | some pl => roundTo f mode keyed neg pl.m pl.e pl.sticky
  | none => { bits := (Config.unsettled op mode keyed x f).toNat % 2 ^ fmtBits f, flags := flNX, satc := 0 }

/-- The canonical NaN with the given flags. -/
def nanWith (f : Fmt) (fl : Byte) : Res := { bits := canonNaN f, flags := fl, satc := 0 }
/-- An infinity with the given flags. -/
def infWith (f : Fmt) (neg : Bool) (fl : Byte) : Res := { bits := signPat f neg + infPat f, flags := fl, satc := 0 }

/-- g(a) of R296, rounded to the type f; op is the word's op, x the operand's bits. -/
def apply (op : Nat) (f : Fmt) (mode keyed x : Nat) : Res :=
  match decodeVal f x with
  | .nan => nanWith f flNANIN
  | .inf neg =>
    match op with
    | 0x20 => if neg then roundTo f mode keyed false 0 0 else infWith f false 0
    | 0x21 => if neg then nanWith f flNV else infWith f false 0
    | 0x22 => roundTo f mode keyed neg 0 0
    | 0x23 => if neg then nanWith f flNV else roundTo f mode keyed false 0 0
    | 0x24 => if neg then nanWith f flNV else infWith f false 0
    | 0x25 | 0x26 => nanWith f flNV
    | _ => roundTo f mode keyed neg 1 0
  | .num neg m e =>
    if m = 0 then
      match op with
      | 0x20 | 0x26 => roundTo f mode keyed false 1 0
      | 0x21 => infWith f true flDZ
      | 0x22 | 0x23 => infWith f neg flDZ
      | _ => roundTo f mode keyed neg 0 0
    else match op with
    | 0x20 =>
      if 12 ≤ floorLog2 m e then roundTo f mode keyed false 1 (if neg then -4096 else 4096)
      else if 0 ≤ e ∨ m % 2 ^ (-e).toNat = 0 then
        (let i : Int := (m * 2 ^ e.toNat / 2 ^ (-e).toNat : Nat)
         roundTo f mode keyed false 1 (if neg then -i else i))
      else roundPlace op f mode keyed x false (firstSome (fun p => exp2At p neg m e) precisions)
    | 0x21 =>
      if neg then nanWith f flNV
      else if m = 2 ^ Nat.log2 m then
        (let k := floorLog2 m e
         roundTo f mode keyed (decide (k < 0)) k.natAbs 0)
      else
        let r := firstSome (fun p => log2At p m e) precisions
        roundPlace op f mode keyed x ((r.map Prod.fst).getD false) (r.map Prod.snd)
    | 0x22 => roundPlace op f mode keyed x neg (some (recip m e))
    | 0x23 => if neg then nanWith f flNV else roundPlace op f mode keyed x false (some (rootRecip m e))
    | 0x24 => if neg then nanWith f flNV else roundPlace op f mode keyed x false (some (root m e))
    | 0x25 =>
      let r := firstSome (fun p => trigAt p false m e) precisions
      roundPlace op f mode keyed x (((r.map Prod.fst).getD false) != neg) (r.map Prod.snd)
    | 0x26 =>
      let r := firstSome (fun p => trigAt p true m e) precisions
      roundPlace op f mode keyed x ((r.map Prod.fst).getD false) (r.map Prod.snd)
    | _ =>
      if 6 ≤ floorLog2 m e then roundTo f mode keyed neg (2 ^ 64 - 1) (-64) true
      else roundPlace op f mode keyed x neg (firstSome (fun p => tanhAt p m e) precisions)

end Sys2Proof.Machine.Special
end

