-- ==== Sys2Proof/Machine/Vector.lean ====
section
/-! DEFINITION. The vector engine: region slots, beats and the engine's clock, writes in flight and hazards, and the
vector words (R270 to R300). -/
namespace Sys2Proof.Machine

/-! ### What a computing word says (R288) -/

/-- The fields of a computing word in one shape; `src` is FROM of vx.cvt, `k` the constant of vx.set. -/
structure VxWord where
  op : Nat
  s : Nat
  d : Nat
  a : Option Nat
  b : Option Nat
  t : Fmt
  r : Nat
  m : Bool
  src : Fmt
  k : W32 := 0
  nbin : Nat := 0
  mode : BitVec 1 := 0
  base : Int := 0
deriving DecidableEq, Repr

/-- A word of the binary mould. -/
def vxBin (op : Nat) (f : VxF) : VxWord :=
  { op := op, s := f.s.toNat, d := f.d.toNat, a := some f.a.toNat, b := some f.b.toNat, t := f.t, r := f.r.toNat,
    m := f.m == 1, src := f.t }
/-- A word of the unary mould. -/
def vxUn (op : Nat) (f : VxU) : VxWord :=
  { op := op, s := f.s.toNat, d := f.d.toNat, a := some f.a.toNat, b := none, t := f.t, r := f.r.toNat, m := f.m == 1,
    src := f.t }

/-- The fields of a computing word, with the ops of R290 to R299. -/
def vxWord? : Instr → Option VxWord
  | .vxAdd f => some (vxBin 0x00 f)
  | .vxSub f => some (vxBin 0x01 f)
  | .vxMul f => some (vxBin 0x02 f)
  | .vxFma f => some (vxBin 0x03 f)
  | .vxMin f => some (vxBin 0x04 f)
  | .vxMax f => some (vxBin 0x05 f)
  | .vxAbs f => some (vxUn 0x06 f)
  | .vxNeg f => some (vxUn 0x07 f)
  | .vxAnd f => some (vxBin 0x08 f)
  | .vxOr f => some (vxBin 0x09 f)
  | .vxXor f => some (vxBin 0x0A f)
  | .vxNot f => some (vxUn 0x0B f)
  | .vxShl f => some (vxBin 0x0C f)
  | .vxShr f => some (vxBin 0x0D f)
  | .vxSra f => some (vxBin 0x0E f)
  | .vxCeq f => some (vxBin 0x10 f)
  | .vxCne f => some (vxBin 0x11 f)
  | .vxClt f => some (vxBin 0x12 f)
  | .vxCle f => some (vxBin 0x13 f)
  | .vxSel f => some (vxBin 0x14 f)
  | .vxCvt f src => some { vxUn 0x18 f with src := src }
  | .vxMov f => some (vxUn 0x19 f)
  | .vxSet s d k t r m =>
    some { op := 0x1A, s := s.toNat, d := d.toNat, a := none, b := none, t := t, r := r.toNat, m := m == 1, src := t,
           k := k }
  | .vxExp2 f => some (vxUn 0x20 f)
  | .vxLog2 f => some (vxUn 0x21 f)
  | .vxRcp f => some (vxUn 0x22 f)
  | .vxRsqrt f => some (vxUn 0x23 f)
  | .vxSqrt f => some (vxUn 0x24 f)
  | .vxSin f => some (vxUn 0x25 f)
  | .vxCos f => some (vxUn 0x26 f)
  | .vxTanh f => some (vxUn 0x27 f)
  | .vxRsum f => some (vxUn 0x28 f)
  | .vxRmin f => some (vxUn 0x29 f)
  | .vxRmax f => some (vxUn 0x2A f)
  | .vxSsum f => some (vxUn 0x2B f)
  | .vxSmin f => some (vxUn 0x2C f)
  | .vxSmax f => some (vxUn 0x2D f)
  | .vxGath f => some (vxBin 0x30 f)
  | .vxScat f => some (vxBin 0x31 f)
  | .vxCmpct f => some (vxBin 0x32 f)
  | .vxHist f nbin1 mode base =>
    some { vxUn 0x33 f with nbin := nbin1.toNat + 1, mode := mode, base := base.toInt }
  | _ => none

/-- Whether a word is ordered (R277). -/
def vxOrdered (op : Nat) : Bool := 0x28 ≤ op
/-- Whether a word reduces. -/
def vxReduces (op : Nat) : Bool := 0x28 ≤ op && op ≤ 0x2A
/-- Whether a word scans. -/
def vxScans (op : Nat) : Bool := 0x2B ≤ op && op ≤ 0x2D
/-- Whether a word compares. -/
def vxCompares (op : Nat) : Bool := 0x10 ≤ op && op ≤ 0x13
/-- Whether a word is a special function. -/
def vxSpecial (op : Nat) : Bool := 0x20 ≤ op && op ≤ 0x27
/-- Whether a word reads v15: under M, and vx.sel always (R273). -/
def vxMasked (w : VxWord) : Bool := w.m || w.op == 0x14

/-- The use of RND for a type, as the largest value allowed: 6 for R, 1 for O, 0 for Z; none for a type that the entry
does not allow (R288, R290 to R299). -/
def vxRnd (op : Nat) (t : Fmt) : Option Nat :=
  let farith (k : Nat) : Option Nat := if fmtFA t then some 6 else if fmtIA t then some k else none
  let faz (k : Nat) : Option Nat := if fmtFA t then some 0 else if fmtIA t then some k else none
  let ia : Option Nat := if fmtIA t then some 0 else none
  let st (k : Nat) : Option Nat := if fmtST t then some k else none
  if op ≤ 0x02 then farith 1
  else if op = 0x03 then (if fmtFA t then some 6 else none)
  else if op ≤ 0x05 then faz 0
  else if op ≤ 0x07 then faz 1
  else if op ≤ 0x0E then ia
  else if op ≤ 0x13 then faz 0
  else if op = 0x14 then st 0
  else if op = 0x18 then st 6
  else if op ≤ 0x1A then st 0
  else if op ≤ 0x27 then (if fmtFA t then some 6 else none)
  else if op = 0x28 ∨ op = 0x2B then farith 1
  else if op ≤ 0x2D then faz 0
  else if op ≤ 0x32 then st 0
  else faz 0

/-- LAT of a fixed-latency word (R300). -/
def vxLat (op : Nat) (t : Fmt) : Nat :=
  if op ≤ 0x01 then (if fmtIsFloat t then 8 else 4)
  else if op = 0x02 then (if fmtIsFloat t then 8 else 6)
  else if op = 0x03 then 8
  else if op = 0x18 then 6
  else if op ≤ 0x1A then 4
  else if op = 0x20 ∨ op = 0x21 then 20
  else if op ≤ 0x24 then 16
  else 28

/-! ### Region slots as a word uses them (R270 to R273) -/

/-- A latched slot: its tile as it stands, with the count and lengths taken at this use. -/
structure VxSrc where
  kind : BitVec 2
  tile : Byte
  off : Int
  stride : Int
  count : Nat
  lens : List Nat
  tl : Byte
  nseg : Nat
  fmt : Fmt
  rows : Nat
  cols : Nat
deriving DecidableEq, Repr

/-- L(e) (R271). -/
def VxSrc.pos (v : VxSrc) (e : Nat) : Int := v.off + e * v.stride
/-- Whether the slot is in bounds (R271). -/
def VxSrc.inBounds (v : VxSrc) : Bool :=
  decide (0 ≤ v.pos 0) && decide (v.pos 0 < v.rows * v.cols) && decide (1 ≤ v.count) &&
    decide (0 ≤ v.pos (v.count - 1)) && decide (v.pos (v.count - 1) < v.rows * v.cols)
/-- The span of a slot (R280). -/
def VxSrc.lo (v : VxSrc) : Int := min (v.pos 0) (v.pos (v.count - 1))
def VxSrc.hi (v : VxSrc) : Int := max (v.pos 0) (v.pos (v.count - 1))
/-- An overlap under R280. -/
def VxSrc.clash (d v : VxSrc) : Bool :=
  d.tile == v.tile && decide (d.lo ≤ v.hi) && decide (v.lo ≤ d.hi) &&
    !(d.off == v.off && d.stride == v.stride && d.kind == v.kind)

/-- The write to an element that stands in cycle c: of those landed by then, the last to land, a later word's at a
tie. -/
def standing (pend : List VxPend) (h : Byte) (p c : Nat) : Option (Nat × Nat) :=
  pend.foldl (fun best w =>
    if w.tile = h ∧ w.land ≤ c then
      match Tab.find? w.cells p with
      | some v => if (best.map Prod.fst).getD 0 ≤ w.land then some (w.land, v) else best
      | none => best
    else best) none

/-- Whether a write to an element lands after cycle c. -/
def landsAfter (pend : List VxPend) (h : Byte) (p c : Nat) : Bool :=
  pend.any fun w => w.tile == h && decide (c < w.land) && (Tab.find? w.cells p).isSome

/-- The lengths of a segmented slot, as a read in cycle c finds them (R272, R276). -/
def State.segLens (s : State) (b : BayNo) (v : Slot) (c : Nat) : List Nat :=
  let t := (s.bay b).tile v.tl
  (List.range v.nseg.toNat).map fun k =>
    match standing (s.bay b).vx.pend v.tl k c with
    | some r => r.2
    | none => s.tileLin b t k

/-- The lengths that a word reads in cycle c, by the role of the slot. -/
def State.slotLens (s : State) (b : BayNo) (m : Tab Slot) (c : Nat) : Tab (List Nat) :=
  m.map fun e => (e.1, if e.2.kind = 2 then s.segLens b e.2 c else [])

/-- The first length that a word reads in cycle c while a write to it has yet to land, with CHK = 1: its tile and
position (R278). -/
def Vx.lenHazard (v : Vx) (m : Tab Slot) (c : Nat) : Option (Byte × Nat) :=
  if v.chk = 0 then none
  else m.findSome? fun e =>
    if e.2.kind = 2 then
      ((List.range e.2.nseg.toNat).find? fun k => landsAfter v.pend e.2.tl k c).map fun k => (e.2.tl, k)
    else none

/-- A slot as a word finds it, with the lengths it read. -/
def State.vxSrc (s : State) (b : BayNo) (v : Slot) (lens : List Nat) : VxSrc :=
  let t := (s.bay b).tile v.tile
  { kind := v.kind, tile := v.tile, off := v.off.toNat, stride := if v.kind = 2 then 1 else v.stride.toInt,
    count := if v.kind = 2 then lens.sum else v.count, lens := lens, tl := v.tl, nseg := v.nseg.toNat, fmt := t.fmt,
    rows := t.rows, cols := t.cols }

/-- Whether a segmented slot keeps R272 and R279: its length tile is N16 and holds NSEG elements, and the lengths sum
to 1 to 65,535. -/
def State.segOk (s : State) (b : BayNo) (tl : Byte) (nseg : Nat) (lens : List Nat) : Bool :=
  let t := (s.bay b).tile tl
  t.fmt == Fmt.n16 && decide (1 ≤ nseg) && decide (nseg ≤ t.size) && decide (1 ≤ lens.sum) && decide (lens.sum ≤ 65535)

/-- The slots that a word uses, by role: 0 vd, 1 va, 2 vb, 15 the mask. -/
def Bay.vxSlots (b : Bay) (w : VxWord) : Tab Slot :=
  let get (v : Nat) : Slot := Tab.get {} b.vx.slots v
  [(0, get w.d)] ++ (w.a.map fun v => (1, get v)).toList ++ (w.b.map fun v => (2, get v)).toList ++
    if vxMasked w then [(15, get 15)] else []

/-- The tiles that a word names through its slots, TL directly after its slot (R151, R272, R378). -/
def slotTiles (m : Tab Slot) : List Byte :=
  m.flatMap fun e => if e.2.kind = 0 then [] else if e.2.kind = 2 then [e.2.tile, e.2.tl] else [e.2.tile]

/-! ### Judging (R279, R280, R288, R289, R297 to R299) -/

/-- The formats that R288 and the entries ask of the slot of a role. -/
def vxFmtOk (w : VxWord) (role : Nat) (f : Fmt) : Bool :=
  let idx := fmtIA f
  match role with
  | 0 => if vxCompares w.op then f == Fmt.n8 else if w.op = 0x33 then f == Fmt.i32 else f == w.t
  | 1 => f == w.src
  | 2 => if w.op = 0x30 ∨ w.op = 0x31 then idx else if w.op = 0x32 then f == Fmt.i32 else f == w.t
  | _ => decide (f.toNat ≤ 6) || f == Fmt.i2

/-- The element count of a word (R289, R297 to R299). -/
def vxCount (w : VxWord) (src : Tab VxSrc) : Nat :=
  let cnt (k : Nat) : Nat := ((src.find? k).map VxSrc.count).getD 0
  if vxReduces w.op || vxScans w.op || w.op == 0x31 || w.op == 0x32 || w.op == 0x33 then cnt 1 else cnt 0

/-- The number of segments of va (R297). -/
def vxSegments (v : VxSrc) : List Nat := if v.kind = 2 then v.lens else [v.count]

/-- Whether the COUNT of the slot of a role is what the entry asks (R273, R289, R297 to R299). -/
def vxCountOk (w : VxWord) (src : Tab VxSrc) (role : Nat) (v : VxSrc) : Bool :=
  let n := vxCount w src
  match role with
  | 0 =>
    if vxReduces w.op then decide (((src.find? 1).map fun a => (vxSegments a).length).getD 0 ≤ v.count)
    else if vxScans w.op then v.count == n
    else if w.op = 0x32 then decide (n ≤ v.count)
    else if w.op = 0x33 then decide (w.nbin ≤ v.count)
    else true
  | 2 => if w.op = 0x32 then true else decide (n ≤ v.count)
  | _ => decide (n ≤ v.count)

/-- Whether the destinations of a word overlap a source of another shape (R280). -/
def vxClash (w : VxWord) (src : Tab VxSrc) : Bool :=
  match src.find? 0 with
  | none => false
  | some d =>
    let others := (src.filter fun e => e.1 != 0).map fun e => e.2
    others.any d.clash ||
      (w.op == 0x32 && match src.find? 2 with
        | some v => (src.filter fun e => e.1 == 1 || e.1 == 15).any fun e => v.clash e.2
        | none => false)

/-- Step 3 of R279, operand by operand in the order of R378; what no single operand breaks is laid to vd (log 31), and an
unset slot names no tile (log 46). -/
def State.vxChecks (s : State) (b : BayNo) (w : VxWord) (src : Tab VxSrc) : List (Bool × Nat × Where) :=
  let entry := (vxRnd w.op w.t).any (fun k => decide (w.r ≤ k)) && !(vxMasked w && w.d == 15) && !vxClash w src
  src.flatMap fun e =>
    let v := e.2
    [(v.kind != 0 && v.inBounds && vxFmtOk w e.1 v.fmt && vxCountOk w src e.1 v && (e.1 != 0 || entry), wIllegal,
      if v.kind = 0 then .nothing else .tile v.tile 0),
     (v.kind != 2 || s.segOk b v.tl v.nseg v.lens, wIllegal, .tile v.tl 0)]

/-! ### Beats (R274) -/

/-- The longest run of a beat that starts at element e, as one slot allows. -/
def VxSrc.run (v : VxSrc) (epb e : Nat) : Nat :=
  let p := (v.pos e).toNat
  let col := p % v.cols
  let g := col / epb * epb
  if v.stride = 1 then min (g + epb) v.cols - col
  else if v.stride = -1 then col - g + 1
  else epb / 8

/-- The beats of the elements from e on: `left` of them are still to do. -/
def vxBeats (src : List VxSrc) (epb cap : Nat) : Nat → Nat → Nat → List Nat
  | 0, _, _ => []
  | fuel + 1, e, left =>
    if left = 0 then []
    else
      let k := max 1 (src.foldl (fun k v => min k (v.run epb e)) (min (min epb cap) left))
      k :: vxBeats src epb cap fuel (e + k) (left - k)

/-- EPB: 32-bit lanes over the widest format among the operands, at least 8 bits. -/
def vxEpb (lanes : Nat) (w : VxWord) (src : List VxSrc) : Nat :=
  lanes * 32 / (src.foldl (fun k v => max k (fmtBits v.fmt)) (max 8 (max (fmtBits w.t) (fmtBits w.src))))

/-! ### Reads and writes in flight (R276, R278) -/

/-- The bits of element e of a slot as a read in cycle c finds them. -/
def State.vxRead (s : State) (b : BayNo) (v : VxSrc) (e c : Nat) : Nat :=
  let p := (v.pos e).toNat
  match standing (s.bay b).vx.pend v.tile p c with
  | some r => r.2
  | none => s.tileLin b ((s.bay b).tile v.tile) p

/-- What one element of a fixed-latency word comes to: a hazard, nothing (inactive), or a write. -/
inductive VxElem where
  | hazard (h : Byte) (p : Nat)
  | skip
  | put (p : Nat) (r : Res)
deriving DecidableEq, Repr

/-- The elements of one beat done so far. -/
structure VxBeat where
  cells : Tab Nat := []
  flags : Byte := 0
  satc : Nat := 0
  stop : Option (Nat × Byte × Nat) := none
deriving DecidableEq, Repr

/-- The elements of a beat in order, up to a hazard. -/
def vxBeatRun (f : Nat → VxElem) : Nat → Nat → VxBeat → VxBeat
  | 0, _, acc => acc
  | n + 1, e, acc =>
    match f e with
    | .hazard h p => { acc with stop := some (e, h, p) }
    | .skip => vxBeatRun f n (e + 1) acc
    | .put p r =>
      vxBeatRun f n (e + 1)
        { acc with cells := acc.cells.put p r.bits, flags := acc.flags ||| r.flags, satc := acc.satc + r.satc }

/-- The beats of a fixed-latency word from cycle c on: the writes it leaves in flight, and the hazard that stops it. -/
def vxBeatsRun (f : Nat → Nat → VxElem) (h : Byte) (lat : Nat) : List Nat → Nat → Nat →
    List VxPend × Option (Nat × Byte × Nat)
  | [], _, _ => ([], none)
  | k :: ks, e, c =>
    let r := vxBeatRun (f c) k e {}
    let out : VxPend := { land := c + lat, tile := h, cells := r.cells, flags := r.flags, satc := r.satc }
    match r.stop with
    | some w => (if r.cells.isEmpty then [] else [out], some w)
    | none =>
      let t := vxBeatsRun f h lat ks (e + k) (c + 1)
      (if r.cells.isEmpty then t.1 else out :: t.1, t.2)

/-! ### Elementwise results (R290, R291, R293 to R296) -/

/-- −v. -/
def Val.negated : Val → Val
  | .nan => .nan
  | .inf n => .inf (!n)
  | .num n m e => .num (!n) m e

/-- A sum, difference, product or fused multiply-add of floating-point elements (R291). -/
def vxFloatArith (op : Nat) (t : Fmt) (mode keyed : Nat) (a b c : Val) : Res :=
  match op with
  | 0x00 => ((({} : Sum).add a).add b).finish t mode keyed
  | 0x01 => ((({} : Sum).add a).add b.negated).finish t mode keyed
  | 0x02 =>
    match mulVal a b with
    | none => { bits := canonNaN t, flags := flNV, satc := 0 }
    | some v => convert t mode keyed v
  | _ => ((({} : Sum).addProd a b).add c).finish t mode keyed

/-- 1 or 0 as an element, with the flags of a compare. -/
def boolRes (b : Bool) (fl : Byte) : Res := { bits := if b then 1 else 0, flags := fl, satc := 0 }

/-- A compare (R291). -/
def vxCompare (op : Nat) (nan : Bool) (c : Int) : Res :=
  let fl := flagIf nan flNANIN
  match op with
  | 0x10 => boolRes (!nan && c == 0) fl
  | 0x11 => boolRes (nan || c != 0) fl
  | 0x12 => boolRes (!nan && c < 0) fl
  | _ => boolRes (!nan && c ≤ 0) fl

/-- An element copied bit for bit. -/
def rawRes (x : Nat) : Res := { bits := x, flags := 0, satc := 0 }

/-- A shift (R291): amounts of bits(TYPE) and above give zeros, or copies of the sign. -/
def vxShift (op : Nat) (t : Fmt) (x k : Nat) : Nat :=
  let w := fmtBits t
  let k := min k w
  match op with
  | 0x0C => x * 2 ^ k % 2 ^ w
  | 0x0D => x % 2 ^ w / 2 ^ k
  | _ => if fmtIsSigned t then wrapN w (sint w x / (2 ^ k : Nat)) else x % 2 ^ w / 2 ^ k

/-- f of R290 on integer elements. -/
def vxInt (op : Nat) (t : Fmt) (sat : Bool) (x y : Nat) : Res :=
  let a := intOf t x
  let b := intOf t y
  let w := fmtBits t
  match op with
  | 0x00 => intRes t sat (a + b)
  | 0x01 => intRes t sat (a - b)
  | 0x02 => intRes t sat (a * b)
  | 0x04 => rawRes (if a ≤ b then x else y)
  | 0x05 => rawRes (if a ≤ b then y else x)
  | 0x06 => intRes t sat (if a < 0 then -a else a)
  | 0x07 => intRes t sat (-a)
  | 0x08 => rawRes (x &&& y)
  | 0x09 => rawRes (x ||| y)
  | 0x0A => rawRes (x ^^^ y)
  | 0x0B => rawRes (2 ^ w - 1 - x % 2 ^ w)
  | 0x0C | 0x0D | 0x0E => rawRes (vxShift op t x y)
  | _ => vxCompare op false (if a < b then -1 else if a = b then 0 else 1)

/-- f of R290 on floating-point elements. -/
def vxFloat (op : Nat) (t : Fmt) (mode keyed x y z : Nat) : Res :=
  let a := decodeVal t x
  let b := decodeVal t y
  let sign := 2 ^ (fmtBits t - 1)
  if op ≤ 0x03 then vxFloatArith op t mode keyed a b (decodeVal t z)
  else match op with
  | 0x04 => pickRes t false a b x y
  | 0x05 => pickRes t true a b x y
  | 0x06 => if a.isNaN then { bits := canonNaN t, flags := flNANIN, satc := 0 } else rawRes (x % sign)
  | 0x07 =>
    if a.isNaN then { bits := canonNaN t, flags := flNANIN, satc := 0 }
    else rawRes (if x < sign then x + sign else x - sign)
  | _ => vxCompare op (a.isNaN || b.isNaN) (cmpVal a b)

/-- The result of a fixed-latency word for one element; z is vd's element for vx.fma and the mask's for vx.sel. A word that
moves bits as they are (vx.sel here, vx.gath, vx.scat, vx.cmpct, cp.in) raises no NANIN for a NaN that it moves (R79;
DESIGN CHOICE, log 72). -/
def vxElement (w : VxWord) (keyed x y z : Nat) : Res :=
  if w.op = 0x14 then rawRes (if z = 0 then y else x)
  else if w.op = 0x18 then convert w.t w.r keyed (decodeVal w.src x)
  else if w.op = 0x19 then rawRes x
  else if w.op = 0x1A then rawRes w.k.toNat
  else if vxSpecial w.op then Special.apply w.op w.t w.r keyed x
  else if fmtIsFloat w.t then vxFloat w.op w.t w.r keyed x y z
  else vxInt w.op w.t (w.r == 1) x y

/-! ### Fixed-latency words (R276 to R278, R281, R289) -/

/-- The rows of a tile that a key is drawn for: the keyed bits of linear position p. -/
def State.vxKeyed (s : State) (b : BayNo) (key : Option Desc) (ent : Entry) (h : Byte) (p : Nat) : Nat :=
  let t := (s.bay b).tile h
  keyedTile t key ent.seed ent.step (p / t.cols) (p % t.cols)

/-- One element of a fixed-latency word in cycle c. Of several slots whose element meets a hazard, v15's comes first, then the
sources in the word's order, then vd's write (DESIGN CHOICE, log 31). -/
def State.vxOne (s : State) (b : BayNo) (w : VxWord) (src : Tab VxSrc) (ent : Entry) (key : Option Desc) (c e : Nat) :
    VxElem :=
  let vx := (s.bay b).vx
  let chk := vx.chk == 1
  let reads : List VxSrc := ((src.filter fun r => r.1 != 0 || w.op == 0x03).map fun r => r.2)
  let read (role : Nat) : Nat := ((src.find? role).map fun v => s.vxRead b v e c).getD 0
  let bad (v : VxSrc) : Bool := chk && landsAfter vx.pend v.tile (v.pos e).toNat c
  let mask := src.find? 15
  match mask with
  | some v =>
    if bad v then .hazard v.tile (v.pos e).toNat
    else if w.m && read 15 == 0 then .skip
    else go reads bad read
  | none => go reads bad read
where
  /-- The reads and the write of an active element. -/
  go (reads : List VxSrc) (bad : VxSrc → Bool) (read : Nat → Nat) : VxElem :=
    match reads.find? bad with
    | some v => .hazard v.tile (v.pos e).toNat
    | none =>
      match src.find? 0 with
      | none => .skip
      | some d =>
        let p := (d.pos e).toNat
        if (s.bay b).vx.chk == 1 && landsAfter (s.bay b).vx.pend d.tile p (c + vxLat w.op w.t - 1) then .hazard d.tile p
        else
          let keyed := if w.r = 5 then s.vxKeyed b key ent d.tile p else 0
          .put p (vxElement w keyed (read 1) (read 2) (if w.op = 0x14 then read 15 else read 0))

/-- The sources of a word's latched slots with the lengths it read. -/
def State.vxSrcs (s : State) (b : BayNo) (m : Tab Slot) (lens : Tab (List Nat)) : Tab VxSrc :=
  m.map fun e => (e.1, s.vxSrc b e.2 (Tab.get [] lens e.1))

/-- The hazard at which a word stands is the word fault "hazard", but none is raised during a pre-emption or a debug stop, or
recorded while another fault is held: the word raises it when it continues (R278, R282, R380). -/
def Bay.raiseHazard (b : Bay) (j : VxJob) (h : Byte) (p : Nat) : Bay :=
  if b.task.isNone || b.saving || b.debugStop then b else b.wordFault 1 j.ent j.index wHazard j.upc (.tile h p)

/-- Runs a fixed-latency word from element `start` in engine cycle t0, to its end or to the hazard at which it stands. -/
def State.runFixed (s : State) (b : BayNo) (j : VxJob) (w : VxWord) (src : Tab VxSrc) (start t0 : Nat) : State :=
  let srcs := src.map fun e => e.2
  let n := vxCount w src
  let lanes := bayLanes (bayKind b)
  let epb := vxEpb lanes w srcs
  let beats := vxBeats srcs epb (if vxSpecial w.op then lanes / 4 else epb) n start (n - start)
  let h := ((src.find? 0).map VxSrc.tile).getD 0
  let r := vxBeatsRun (s.vxOne b w src j.ent j.key) h (vxLat w.op w.t) beats start t0
  s.modBay b fun y => { y with vx := { y.vx with
    clk := t0, prevT := t0, prevB := beats.length, pend := y.vx.pend ++ r.1,
    stopped := r.2.map fun f => { j with upc := f.1, due := some f.2 } } }

/-! ### Ordered words (R277, R297 to R299) -/

/-- The running value of a reduction or scan: an exact sum, an integer sum, or the extreme so far. -/
structure VxAcc where
  sum : Sum := {}
  int : Int := 0
  ext : Res := ⟨0, 0, 0⟩
deriving DecidableEq, Repr

/-- Whether a reduction or scan combines by sum, and if not, whether it takes the greatest. -/
def vxSums (op : Nat) : Bool := op == 0x28 || op == 0x2B
def vxGreatest (op : Nat) : Bool := op == 0x2A || op == 0x2D

/-- The identity (R297). -/
def vxIdentity (op : Nat) (t : Fmt) : VxAcc :=
  let w := fmtBits t
  let hi := if fmtIsSigned t then 2 ^ (w - 1) - 1 else 2 ^ w - 1
  let lo := if fmtIsSigned t then 2 ^ (w - 1) else 0
  if fmtIsFloat t then { ext := rawRes (signPat t (vxGreatest op) + infPat t) }
  else { ext := rawRes (if vxGreatest op then lo else hi) }

/-- Combines one element. -/
def VxAcc.combine (a : VxAcc) (op : Nat) (t : Fmt) (x : Nat) : VxAcc :=
  if vxSums op then
    (if fmtIsFloat t then { a with sum := a.sum.add (decodeVal t x) } else { a with int := a.int + intOf t x })
  else if fmtIsFloat t then
    { a with ext := pickRes t (vxGreatest op) (decodeVal t a.ext.bits) (decodeVal t x) a.ext.bits x }
  else { a with ext := vxInt (if vxGreatest op then 0x05 else 0x04) t false a.ext.bits x }

/-- finish(acc) (R297). -/
def VxAcc.finish (a : VxAcc) (op : Nat) (t : Fmt) (r keyed : Nat) : Res :=
  if vxSums op then (if fmtIsFloat t then a.sum.finish t r keyed else intRes t (r == 1) a.int) else a.ext

/-- The outputs of one segment of `left` elements from e on: for a scan each active element's, by element; the running
value at the end. -/
def vxSegment (w : VxWord) (active : Nat → Bool) (elem : Nat → Nat) (keyed : Nat → Nat) :
    Nat → Nat → VxAcc → List (Nat × Res) × VxAcc
  | 0, _, acc => ([], acc)
  | n + 1, e, acc =>
    if active e then
      let acc1 := acc.combine w.op w.t (elem e)
      let r := vxSegment w active elem keyed n (e + 1) acc1
      (if vxScans w.op then (e, acc1.finish w.op w.t w.r (keyed e)) :: r.1 else r.1, r.2)
    else vxSegment w active elem keyed n (e + 1) acc

/-- The outputs of a reduction or scan over its segments: index of vd's element and its result. -/
def vxCombined (w : VxWord) (active : Nat → Bool) (elem keyed : Nat → Nat) : List Nat → Nat → Nat → List (Nat × Res)
  | [], _, _ => []
  | n :: ls, k, e =>
    let r := vxSegment w active elem keyed n e (vxIdentity w.op w.t)
    (if vxScans w.op then r.1 else [(k, r.2.finish w.op w.t w.r (keyed k))]) ++
      vxCombined w active elem keyed ls (k + 1) (e + n)

/-- A write in flight from results by index of a slot. -/
def vxLanding (land : Nat) (v : VxSrc) (rs : List (Nat × Res)) (fl : Byte) : VxPend :=
  { land := land, tile := v.tile,
    cells := rs.foldl (fun m e => Tab.put m (v.pos e.1).toNat e.2.bits) [],
    flags := rs.foldl (fun f e => f ||| e.2.flags) fl, satc := rs.foldl (fun n e => n + e.2.satc) 0 }

/-- The bin of one element of vx.hist, if it counts (R299). A NaN that MODE 1 reads counts nowhere and raises no NANIN in vd's
tile: no element is written for it (R79, R105; DESIGN CHOICE, log 73). -/
def vxBin? (w : VxWord) (x : Nat) : Option Nat :=
  let clamp (v : Int) : Nat := (clampTo (v - w.base) 0 (w.nbin - 1)).toNat
  if w.mode = 0 then some (clamp (intOf w.t x))
  else match decodeVal w.t x with
  | .num _ m e => if m = 0 then none else some (clamp (floorLog2 m e))
  | _ => none

/-- One count more in a bin (R299): the bins touched so far, with clamps and flags. -/
def vxCountUp (old : Nat → Nat) (acc : List (Nat × Res)) (bin : Nat) : List (Nat × Res) :=
  let prev : Res := (Tab.find? acc bin).getD (rawRes (old bin))
  let r := satInt Fmt.i32 (intOf Fmt.i32 prev.bits + 1)
  Tab.put acc bin { bits := r.bits, flags := prev.flags ||| r.flags, satc := prev.satc + r.satc }

/-- The writes that an ordered word makes, landing in one cycle; every source is read before any of them (R280). -/
def State.orderedWrites (s : State) (b : BayNo) (w : VxWord) (src : Tab VxSrc) (ent : Entry) (key : Option Desc)
    (land : Nat) : List VxPend :=
  let read (role e : Nat) : Nat := ((src.find? role).map fun v => s.vxRead b v e land).getD 0
  let active (e : Nat) : Bool := !w.m || read 15 e != 0
  let n := vxCount w src
  let live := (List.range n).filter active
  match src.find? 0 with
  | none => []
  | some d =>
    let keyed (e : Nat) : Nat := if w.r = 5 then s.vxKeyed b key ent d.tile (d.pos e).toNat else 0
    if w.op ≤ 0x2D then
      [vxLanding land d
        (vxCombined w active (read 1) keyed (((src.find? 1).map vxSegments).getD []) 0 0) 0]
    else if w.op = 0x30 then
      let va := ((src.find? 1).map VxSrc.count).getD 0
      let f := ((src.find? 2).map VxSrc.fmt).getD 0
      [vxLanding land d (live.map fun e =>
        let i := intOf f (read 2 e)
        (e, if 0 ≤ i ∧ i < va then rawRes (read 1 i.toNat) else ⟨0, flOOB, 0⟩)) 0]
    else if w.op = 0x31 then
      let f := ((src.find? 2).map VxSrc.fmt).getD 0
      let dest : List (Int × Nat) := live.map fun e => (intOf f (read 2 e), read 1 e)
      let ok := dest.filter fun p => decide (0 ≤ p.1) && decide (p.1 < (d.count : Int))
      [vxLanding land d (ok.map fun p => (p.1.toNat, rawRes p.2)) (flagIf (ok.length != dest.length) flOOB)]
    else if w.op = 0x32 then
      vxLanding land d ((List.range live.length).map fun k => (k, rawRes (read 1 (live.getD k 0)))) 0 ::
        ((src.find? 2).map fun v => vxLanding land v [(0, rawRes (live.length % 2 ^ 32))] 0).toList
    else
      [vxLanding land d (live.foldl (fun acc e =>
        match vxBin? w (read 1 e) with
        | some k => vxCountUp (read 0) acc k
        | none => acc) []) 0]

/-- The beats of an ordered word: EPB elements of the slots that it streams, or L / 4 elements. -/
def vxOrderedBeats (lanes : Nat) (w : VxWord) (src : Tab VxSrc) : Nat :=
  let n := vxCount w src
  if w.op = 0x30 ∨ w.op = 0x31 ∨ w.op = 0x32 then (n + lanes / 4 - 1) / (lanes / 4)
  else
    let all := src.map fun e => e.2
    let streamed := (src.filter fun e => e.1 != 0 || vxScans w.op).map fun e => e.2
    let epb := vxEpb lanes w all
    (vxBeats streamed epb epb n 0 n).length

/-- Runs an ordered word issued in engine cycle t0. -/
def State.runOrdered (s : State) (b : BayNo) (e : Entry) (w : VxWord) (src : Tab VxSrc) (t0 : Nat) : State :=
  let beats := vxOrderedBeats (bayLanes (bayKind b)) w src
  let land := t0 + beats - 1 + (if w.op = 0x30 ∨ w.op = 0x31 ∨ w.op = 0x32 then 8 else 12)
  let k := if w.r = 5 ∧ fmtIsFloat w.t then s.keyDesc b (((src.find? 0).map VxSrc.tile).getD 0) else (none, s)
  let ps := k.2.orderedWrites b w src e k.1 land
  k.2.modBay b fun y => { y with vx := { y.vx with clk := t0, prevT := land, prevB := 0, pend := y.vx.pend ++ ps } }

/-! ### Issue (R277, R279, R421) -/

/-- The engine cycle in which the next word with stall count S issues (R277). -/
def Vx.issueAt (v : Vx) (stall : Nat) : Nat := max v.clk (v.prevT + v.prevB + 4 * stall)

/-- Judges and issues a computing word at the head of vec. A hazard of a segmented slot's lengths is raised at judging, behind
the checks of R279's step 3 and before the word issues: ISSUED does not count it, and a resume judges it anew (R278; DESIGN
CHOICE, log 73). -/
def State.issueVx (s : State) (e : Entry) (i : Instr) (w : VxWord) : State :=
  let b := s.cur
  let y := s.bay b
  let slots := y.vxSlots w
  let tiles := slotTiles slots
  if !i.wf then s.judged 1 e (wIllegal, .nothing)
  else match y.missing 1 tiles with
  | some h => s.judged 1 e (wUnallocated, .tile h 0)
  | none =>
    if !tiles.all y.ready || (vxOrdered w.op && !y.vx.pend.isEmpty) then s
    else
      let t0 := y.vx.issueAt w.s
      let lens := s.slotLens b slots t0
      let src := s.vxSrcs b slots lens
      match firstFail (s.vxChecks b w src) with
      | some f => s.judged 1 e f
      | none =>
        if vxOrdered w.op then (s.issueHead 1).runOrdered b e w src t0
        else match y.vx.lenHazard slots t0 with
        | some p => s.judged 1 e (wHazard, .tile p.1 p.2)
        | none =>
          let h := ((src.find? 0).map VxSrc.tile).getD 0
          let k := if w.r = 5 then (s.issueHead 1).keyDesc b h else (none, s.issueHead 1)
          k.2.runFixed b { ent := e, instr := i, slots := slots, lens := lens, index := y.vec.issued, key := k.1 } w src
            0 t0

/-- A word that a hazard stopped continues from its UPC with its latched slots (R281, R282). -/
def State.continueVx (s : State) (b : BayNo) (j : VxJob) : State :=
  match vxWord? j.instr with
  | none => s
  | some w =>
    let vx := (s.bay b).vx
    s.runFixed b j w (s.vxSrcs b j.slots j.lens) j.upc (max vx.clk (vx.prevT + vx.prevB))

/-- A computing word of the current bay: the stopped one raises its hazard, or continues whatever stops the queues, for it runs
to its end (R282); else the head of vec issues. -/
def State.vector (s : State) (i : Instr) : Out :=
  let y := s.bay s.cur
  match y.vx.stopped with
  | some j =>
    match j.due with
    | some f => onCur s fun y => y.raiseHazard j f.1 f.2
    | none => .next (if y.task.isNone then s else s.continueVx s.cur j)
  | none => onHead s 1 fun e s =>
    match vxWord? i with
    | some w => s.issueVx e i w
    | none => s

/-- A control word: an ordered word of one cycle that names tiles (R287); check judges and f acts. -/
def State.vxControl (s : State) (i : Instr) (stall : Nat) (tiles : List Byte) (check : State → Option (Nat × Where))
    (f : Vx → Vx) : Out :=
  if (s.bay s.cur).vx.stopped.isSome then .next s
  else onHead s 1 fun e s =>
    let y := s.bay s.cur
    if !i.wf then s.judged 1 e (wIllegal, .nothing)
    else match y.missing 1 tiles with
    | some h => s.judged 1 e (wUnallocated, .tile h 0)
    | none =>
      if !tiles.all y.ready || !y.vx.pend.isEmpty then s
      else match check s with
      | some w => s.judged 1 e w
      | none =>
        let t0 := y.vx.issueAt stall
        (s.issueHead 1).modBay s.cur fun y => { y with vx := f { y.vx with clk := t0, prevT := t0, prevB := 1 } }

/-! ### Words -/

/-- VX_SLOT (R284). -/
def execVxSlot (stall : BitVec 3) (d : BitVec 4) (tile : BitVec 8) (off : BitVec 24) (stride count : BitVec 16)
    (s : State) : Out :=
  let v : Slot := { kind := 1, tile := tile, off := off, stride := stride, count := count.toNat }
  s.vxControl (.vxSlot stall d tile off stride count) stall.toNat [tile]
    (fun s => if (s.vxSrc s.cur v []).inBounds then none else some (wIllegal, .tile tile 0))
    fun x => { x with slots := x.slots.put d.toNat v }

/-- VX_SEG (R285). -/
def execVxSeg (stall : BitVec 3) (d : BitVec 4) (tile tl : BitVec 8) (off : BitVec 24) (nseg : BitVec 16) (s : State) :
    Out :=
  let v : Slot := { kind := 2, tile := tile, off := off, stride := 1, tl := tl, nseg := nseg }
  s.vxControl (.vxSeg stall d tile tl off nseg) stall.toNat [tile, tl]
    (fun s => if s.segOk s.cur tl nseg.toNat (s.segLens s.cur v (s.bay s.cur).vx.clk) then none
              else some (wIllegal, .tile tl 0))
    fun x => { x with slots := x.slots.put d.toNat v }

/-- VX_CHK (R286). -/
def execVxChk (stall : BitVec 3) (on : BitVec 1) (s : State) : Out :=
  s.vxControl (.vxChk stall on) stall.toNat [] (fun _ => none) fun x => { x with chk := on }

/-- VX_ADD (R290). -/
def execVxAdd (f : VxF) (s : State) : Out := s.vector (.vxAdd f)

/-- VX_SUB (R290). -/
def execVxSub (f : VxF) (s : State) : Out := s.vector (.vxSub f)

/-- VX_MUL (R290). -/
def execVxMul (f : VxF) (s : State) : Out := s.vector (.vxMul f)

/-- VX_FMA (R290). -/
def execVxFma (f : VxF) (s : State) : Out := s.vector (.vxFma f)

/-- VX_MIN (R290). -/
def execVxMin (f : VxF) (s : State) : Out := s.vector (.vxMin f)

/-- VX_MAX (R290). -/
def execVxMax (f : VxF) (s : State) : Out := s.vector (.vxMax f)

/-- VX_ABS (R290). -/
def execVxAbs (f : VxU) (s : State) : Out := s.vector (.vxAbs f)

/-- VX_NEG (R290). -/
def execVxNeg (f : VxU) (s : State) : Out := s.vector (.vxNeg f)

/-- VX_AND (R290). -/
def execVxAnd (f : VxF) (s : State) : Out := s.vector (.vxAnd f)

/-- VX_OR (R290). -/
def execVxOr (f : VxF) (s : State) : Out := s.vector (.vxOr f)

/-- VX_XOR (R290). -/
def execVxXor (f : VxF) (s : State) : Out := s.vector (.vxXor f)

/-- VX_NOT (R290). -/
def execVxNot (f : VxU) (s : State) : Out := s.vector (.vxNot f)

/-- VX_SHL (R290). -/
def execVxShl (f : VxF) (s : State) : Out := s.vector (.vxShl f)

/-- VX_SHR (R290). -/
def execVxShr (f : VxF) (s : State) : Out := s.vector (.vxShr f)

/-- VX_SRA (R290). -/
def execVxSra (f : VxF) (s : State) : Out := s.vector (.vxSra f)

/-- VX_CEQ (R290). -/
def execVxCeq (f : VxF) (s : State) : Out := s.vector (.vxCeq f)

/-- VX_CNE (R290). -/
def execVxCne (f : VxF) (s : State) : Out := s.vector (.vxCne f)

/-- VX_CLT (R290). -/
def execVxClt (f : VxF) (s : State) : Out := s.vector (.vxClt f)

/-- VX_CLE (R290). -/
def execVxCle (f : VxF) (s : State) : Out := s.vector (.vxCle f)

/-- VX_SEL (R290). -/
def execVxSel (f : VxF) (s : State) : Out := s.vector (.vxSel f)

/-- VX_MOV (R294). -/
def execVxMov (f : VxU) (s : State) : Out := s.vector (.vxMov f)

/-- VX_EXP2 (R296). -/
def execVxExp2 (f : VxU) (s : State) : Out := s.vector (.vxExp2 f)

/-- VX_LOG2 (R296). -/
def execVxLog2 (f : VxU) (s : State) : Out := s.vector (.vxLog2 f)

/-- VX_RCP (R296). -/
def execVxRcp (f : VxU) (s : State) : Out := s.vector (.vxRcp f)

/-- VX_RSQRT (R296). -/
def execVxRsqrt (f : VxU) (s : State) : Out := s.vector (.vxRsqrt f)

/-- VX_SQRT (R296). -/
def execVxSqrt (f : VxU) (s : State) : Out := s.vector (.vxSqrt f)

/-- VX_SIN (R296). -/
def execVxSin (f : VxU) (s : State) : Out := s.vector (.vxSin f)

/-- VX_COS (R296). -/
def execVxCos (f : VxU) (s : State) : Out := s.vector (.vxCos f)

/-- VX_TANH (R296). -/
def execVxTanh (f : VxU) (s : State) : Out := s.vector (.vxTanh f)

/-- VX_RSUM (R297). -/
def execVxRsum (f : VxU) (s : State) : Out := s.vector (.vxRsum f)

/-- VX_RMIN (R297). -/
def execVxRmin (f : VxU) (s : State) : Out := s.vector (.vxRmin f)

/-- VX_RMAX (R297). -/
def execVxRmax (f : VxU) (s : State) : Out := s.vector (.vxRmax f)

/-- VX_SSUM (R297). -/
def execVxSsum (f : VxU) (s : State) : Out := s.vector (.vxSsum f)

/-- VX_SMIN (R297). -/
def execVxSmin (f : VxU) (s : State) : Out := s.vector (.vxSmin f)

/-- VX_SMAX (R297). -/
def execVxSmax (f : VxU) (s : State) : Out := s.vector (.vxSmax f)

/-- VX_GATH (R298). -/
def execVxGath (f : VxF) (s : State) : Out := s.vector (.vxGath f)

/-- VX_SCAT (R298). -/
def execVxScat (f : VxF) (s : State) : Out := s.vector (.vxScat f)

/-- VX_CMPCT (R298). -/
def execVxCmpct (f : VxF) (s : State) : Out := s.vector (.vxCmpct f)

/-- VX_SET (R295). -/
def execVxSet (stall : BitVec 3) (d : BitVec 4) (k : W32) (t : BitVec 4) (r : BitVec 3) (m : BitVec 1) (s : State) :
    Out :=
  s.vector (.vxSet stall d k t r m)

/-- VX_CVT (R293). -/
def execVxCvt (f : VxU) (src : BitVec 4) (s : State) : Out := s.vector (.vxCvt f src)

/-- VX_HIST (R299). -/
def execVxHist (f : VxU) (nbin1 : BitVec 10) (mode : BitVec 1) (base : BitVec 8) (s : State) : Out :=
  s.vector (.vxHist f nbin1 mode base)

/-! ### Landing (R276) -/

/-- The index of the write that lands first, the earlier word's at a tie. -/
def firstLanding : List VxPend → Option (Nat × Nat)
  | [] => none
  | w :: t =>
    match firstLanding t with
    | some (k, c) => if c < w.land then some (k + 1, c) else some (0, w.land)
    | none => some (0, w.land)

/-- One write in flight lands: its elements and what they raise (R105, R276). -/
def State.landOne (s : State) (b : BayNo) : State :=
  let vx := (s.bay b).vx
  match firstLanding vx.pend with
  | none => s
  | some (k, c) =>
    match vx.pend[k]? with
    | none => s
    | some w =>
      let t := (s.bay b).tile w.tile
      let s1 := (w.cells.foldl (fun s e => s.setTileLin b t e.1 e.2) s).raiseTile b w.tile w.flags w.satc
      s1.modBay b fun y => { y with vx := { y.vx with clk := max y.vx.clk c, pend := y.vx.pend.eraseIdx k } }

/-- Every write in flight lands: a stop is complete only then (R282). -/
def State.landAll (s : State) (b : BayNo) : Nat → State
  | 0 => s
  | n + 1 => (s.landOne b).landAll b n

/-- VX_WRITE_LAND (R276): the next write of the bay in flight lands. -/
def execVxWriteLand (bay : BayNo) (s : State) : Out := onBay s bay fun s => s.landOne bay

end Sys2Proof.Machine
end

