-- ==== Sys2Proof/Machine/Copy.lean ====
section
/-! DEFINITION. The copy engine: control copies, data copies row by row, their completion, and cp.drain (R302 to
R328). -/
namespace Sys2Proof.Machine

/-! ### What a data copy says -/

/-- The fields of a data copy in one shape: op 3 in, 4 out, 5 fill, 6 t2t, 7 gath, 8 scat, 9 red, 10 peer; h is the
word's tile field, h2 TDST, TI or TR. -/
structure CpWord where
  op : Nat
  q : BitVec 1
  cls : BitVec 4 := 0
  t : BitVec 12
  h : Byte
  h2 : Byte := 0
  rnd : Nat := 0
  rop : Nat := 0
  res : Bool := false
  sig : Bool := false
  std : BitVec 12 := 0
deriving DecidableEq, Repr

/-- The fields of a data copy. -/
def cpWord? : Instr → Option CpWord
  | .cpIn c t h => some { op := 3, q := 0, cls := c, t := t, h := h }
  | .cpInCout c t h => some { op := 3, q := 1, cls := c, t := t, h := h }
  | .cpOut c t h => some { op := 4, q := 1, cls := c, t := t, h := h }
  | .cpOutCin c t h => some { op := 4, q := 0, cls := c, t := t, h := h }
  | .cpFill t h => some { op := 5, q := 1, t := t, h := h }
  | .cpFillCin t h => some { op := 5, q := 0, t := t, h := h }
  | .cpT2t q t src tdst rnd => some { op := 6, q := q, t := t, h := src, h2 := tdst, rnd := rnd.toNat }
  | .cpGath q c t h ti => some { op := 7, q := q, cls := c, t := t, h := h, h2 := ti }
  | .cpScat q c t h ti => some { op := 8, q := q, cls := c, t := t, h := h, h2 := ti }
  | .cpRed q c t h op rnd res tr =>
    some { op := 9, q := q, cls := c, t := t, h := h, h2 := tr, rnd := rnd.toNat, rop := op.toNat, res := res == 1 }
  | .cpPeer q c t h sig std => some { op := 10, q := q, cls := c, t := t, h := h, sig := sig == 1, std := std }
  | _ => none

/-- The queue of a copy word (R51). -/
def CpWord.queue (w : CpWord) : Nat := 2 + w.q.toNat
/-- The tile that a copy fills (R150). -/
def CpWord.into (w : CpWord) : Option Byte :=
  if w.op = 3 ∨ w.op = 5 ∨ w.op = 7 then some w.h else if w.op = 6 then some w.h2 else none
/-- The tile that a copy drains (R150). -/
def CpWord.source (w : CpWord) : Option Byte := if w.op = 3 ∨ w.op = 5 ∨ w.op = 7 then none else some w.h
/-- The tile whose rows the copy goes through, and whose ORIGIN it takes (R305, R306). -/
def CpWord.shape (w : CpWord) : Byte := if w.op = 6 then w.h2 else w.h
/-- The tiles that the word names, in the order of its assembly form. -/
def CpWord.tiles (w : CpWord) : List Byte :=
  if w.op = 6 then [w.h2, w.h]
  else if w.op = 7 ∨ w.op = 8 ∨ (w.op = 9 ∧ w.res) then [w.h, w.h2] else [w.h]
/-- Whether the word writes its tensor. -/
def CpWord.writes (w : CpWord) : Bool := w.op == 4 || decide (8 ≤ w.op)
/-- Whether the word reads its tensor's descriptor (R317, R318). -/
def CpWord.described (w : CpWord) : Bool := w.op != 5 && (w.op != 6 || w.rnd == 5)
/-- Whether the word uses the nest for coordinates (R305, R319; log 23). -/
def CpWord.nested (w : CpWord) : Bool := w.op != 5 && w.op != 7 && w.op != 8 && (w.op != 6 || w.rnd == 5)
/-- Whether the word makes memory accesses in its class (R324). -/
def CpWord.accesses (w : CpWord) : Bool := w.op != 5 && w.op != 6

/-! ### Tile states at issue (R150, R151) -/

/-- The tiles that an executing word writes, other than by filling them. -/
def wordWrites : Instr → List Byte
  | .mxDrain _ _ _ _ _ _ td => [td]
  | .mxRq f => [f.td]
  | .mxSnap _ td => [td]
  | .cpRed _ _ _ _ _ _ res tr => if res = 1 then [tr] else []
  | .kxSpmm f => [f.out]
  | .kxBspmm f => [f.out]
  | .kxSddmm f => [f.out]
  | .kxSpadd _ _ _ _ tc _ _ => [tc]
  | .kxSort f _ tcn cen => [f.tk] ++ (if f.ven = 1 then [f.tv] else []) ++ if cen = 1 then [tcn] else []
  | .kxMerge f _ _ => [f.tk] ++ if f.ven = 1 then [f.tv] else []
  | .kxSsort f _ _ => [f.tk] ++ if f.ven = 1 then [f.tv] else []
  | .kxCmpct _ ven tv tk _ tcn cen => [tk] ++ (if ven = 1 then [tv] else []) ++ if cen = 1 then [tcn] else []
  | .kxUniq _ ven tv tk => [tk] ++ if ven = 1 then [tv] else []
  | .kxTopk f _ _ => [f.tk] ++ if f.ven = 1 then [f.tv] else []
  | _ => []

/-- Whether an issued word that writes tile h is still executing. -/
def Bay.written (b : Bay) (h : Byte) : Bool :=
  (b.mx.port.any fun j => (wordWrites j.instr).contains h) || (b.vx.pend.any fun w => w.tile == h) ||
    (b.vx.stopped.any fun j => ((j.slots.find? 0).map Slot.tile) == some h) ||
    (b.kx.job.any fun j => (wordWrites j.instr).contains h) ||
    (b.cpIn.jobs.any fun j => (wordWrites j.instr).contains h) ||
    b.cpOut.jobs.any fun j => (wordWrites j.instr).contains h

/-- Whether the tiles of a copy are in the states that R151 asks. A cp.gath whose index tile is the tile it fills asks
that one tile for both states and never issues; a cp.t2t onto its own source, which R318 makes illegal, is judged once that
tile is ready (DEDUCED, log 64). -/
def Bay.copyReady (b : Bay) (w : CpWord) : Bool :=
  (w.op != 7 || (b.tile w.h2).state == 2) && w.tiles.all fun h =>
    if w.into = some h ∧ ¬ (w.op = 6 ∧ w.h = w.h2) then (b.tile h).state == 0
    else (b.tile h).state == 2 && (w.source != some h || !b.written h)

/-- The state of a tile that a copy out has read, or that a skipped copy out leaves (R150). -/
def Tile.drained (t : Tile) : Tile := { t with state := if t.autoe = 1 then 0 else 2 }

/-! ### Judging (R309, R316 to R323) -/

/-- The product of the counts of the active levels. -/
def Cp.product (c : Cp) : Nat :=
  ((List.range c.nlev.toNat).map fun k => (c.levels.getD k {}).cnt).foldl (· * ·) 1
/-- R305's rule on counts. -/
def Cp.countsOk (c : Cp) (rows : Nat) : Bool := c.nlev == 0 || c.product == rows
/-- R305's rule on dimensions. -/
def Cp.dimsOk (c : Cp) (rank : Nat) : Bool :=
  (List.range c.nlev.toNat).all fun k => decide ((c.levels.getD k {}).dsel.toNat < rank)

/-- The named tensor as an operand that failed. -/
def CpWord.tensor (w : CpWord) : Where := .tensor w.t 0

/-- Step 3 of R309. -/
def Bay.cpShapes (b : Bay) (w : CpWord) : List (Bool × Nat × Where) :=
  let t := b.tile w.h
  let u := b.tile w.h2
  let nest := [(!w.nested || (b.cp w.q).countsOk (b.tile w.shape).rows, wIllegal, w.tensor)]
  if w.op = 6 then
    nest ++ [bad (w.h != w.h2 && !(u.fmt == Fmt.qn4 && t.fmt != Fmt.qn4) && decide (t.rows ≤ u.rows) &&
      decide (t.cols ≤ u.cols)) w.h2]
  else if w.op = 7 ∨ w.op = 8 then nest ++ [bad (u.fmt == Fmt.i32 && decide (t.rows ≤ u.size)) w.h2]
  else if w.op = 9 then
    nest ++ [badNone (w.rop != 3 && (!w.res || w.rop == 0)), bad (!w.res || t.fmt == Fmt.fp32) w.h,
      bad (!w.res || (u.fmt == Fmt.fp32 && decide (t.rows ≤ u.rows) && decide (t.cols ≤ u.cols))) w.h2]
  else nest

/-- The rights that the word needs on its tensor's slot (R170). -/
def CpWord.needs (w : CpWord) : BitVec 4 := if w.op = 9 then 3 else if w.writes then 2 else 1

/-- Whether n bytes at a histogram or sidecar address lie within the buffer that its slot names. -/
def State.sideInside (s : State) (b : BayNo) (a : Word) (n : Nat) : Bool :=
  let y := s.bay b
  match y.capAt (addrSlot a) with
  | some c => decide (addrOff a + n ≤ s.bufSize y.ctx c.buf)
  | none => false

/-- Steps 5 to 8 of R309 for the named tensor d and, with SIG, the signal tensor e. The key tensor of cp.t2t is neither
read nor written, so its slot is not checked (DEDUCED, log 64). -/
def State.cpTensor (s : State) (b : BayNo) (w : CpWord) (d e : Desc) : List (Bool × Nat × Where) :=
  let y := s.bay b
  let t := y.tile w.h
  let x := w.tensor
  let z : Where := .tensor w.std 0
  let writes := w.writes
  [((w.op == 6 || w.op == 9 || Desc.fmt d == t.fmt) && !(w.op == 9 && Desc.fmt d == Fmt.qn4) &&
      (!w.nested || (y.cp w.q).dimsOk (Desc.rank d)), wIllegal, x),
   (!w.sig || Desc.fmt e == Fmt.i32, wIllegal, z),
   ((w.op == 6 || y.engineCap (Desc.slot d) (Desc.buf d) w.needs) &&
      (!writes || !Desc.hen d || s.sideCap b (Desc.hist d)) && (!writes || !Desc.sen d || s.sideCap b (Desc.side d)),
    wCapability, x),
   (!w.sig || y.engineCap (Desc.slot e) (Desc.buf e) 2, wCapability, z),
   (w.op != 9 || !s.isHost y.ctx (Desc.buf d), wIllegal, x),
   (!w.sig || !s.isHost y.ctx (Desc.buf e), wIllegal, z),
   ((!writes || !Desc.hen d || s.sideInside b (Desc.hist d) 272) && (!writes || !Desc.sen d || s.sideInside b (Desc.side d) 4),
    wBounds, x),
   (!w.sig || decide (Desc.off e + 4 ≤ s.bufSize y.ctx (Desc.buf e)), wBounds, z)]

/-- Steps 4 to 8 of R309: the fault, or the descriptors that the word latches. -/
def State.cpJudge (s : State) (b : BayNo) (w : CpWord) : Except (Nat × Where) (Desc × Desc) × State :=
  if !w.described then (.ok ([], []), s)
  else
    let r := s.judgeDesc b w.t
    if !r.2.1 then (.error (wDescriptor, w.tensor), r.2.2)
    else
      let e := if w.sig then r.2.2.judgeDesc b w.std else ([], true, r.2.2)
      if !e.2.1 then (.error (wDescriptor, .tensor w.std 0), e.2.2)
      else match firstFail (e.2.2.cpTensor b w r.1 e.1) with
      | some f => (.error f, e.2.2)
      | none => (.ok (r.1, e.1), e.2.2)

/-- The origin of a data copy (R306). -/
def Bay.cpOrigin (b : Bay) (w : CpWord) : List (BitVec 24) :=
  let c := b.cp w.q
  let v := if c.orgv = 1 then c.org else (b.tile w.shape).origin
  (List.range 8).map fun k => v.getD k 0

/-- Applies f to the state of a copy queue. -/
def Bay.modCp (b : Bay) (q : BitVec 1) (f : Cp → Cp) : Bay := b.setCp q (f (b.cp q))

/-- The tile states that the issue of a copy brings (R150, R105). -/
def Bay.cpBegin (b : Bay) (w : CpWord) (o : List (BitVec 24)) : Bay :=
  let b1 := match w.source with
    | some h => b.setTile h { b.tile h with state := 3 }
    | none => b
  match w.into with
  | some h => b1.setTile h { b1.tile h with state := 1, td := w.t, origin := o, keyv := 1, status := 0 }
  | none => b1

/-- Judges and issues a data copy at the head of its queue (R304, R309, R421). -/
def State.issueCp (s : State) (e : Entry) (i : Instr) (w : CpWord) : State :=
  let b := s.cur
  let y := s.bay b
  let c := y.cp w.q
  match y.missing w.queue w.tiles with
  | some h => s.judged w.queue e (wUnallocated, .tile h 0)
  | none =>
    if !y.copyReady w || decide (4 ≤ c.jobs.length) then s
    else match firstFail (y.cpShapes w) with
    | some f => s.judged w.queue e f
    | none =>
      let r := s.cpJudge b w
      match r.1 with
      | .error f => r.2.judged w.queue e f
      | .ok ds =>
        let o := y.cpOrigin w
        let j : CpJob := { ent := e, instr := i, origin := o, nlev := c.nlev, levels := c.levels, pad := c.pad,
                           desc := ds.1, desc2 := ds.2, index := (y.queue w.queue).issued }
        (r.2.issueHead w.queue).modBay b fun y =>
          (y.cpBegin w o).modCp w.q fun c => { c with orgv := 0, jobs := c.jobs ++ [j] }

/-- A data copy at the head of its queue. -/
def State.copy (s : State) (i : Instr) : Out :=
  match cpWord? i with
  | none => .next s
  | some w => onHead s w.queue fun e s => s.issueCp e i w

/-! ### Coordinates and rows (R305 to R308) -/

/-- Adds v to component k. -/
def addAt (c : List Int) (k : Nat) (v : Int) : List Int := c.set k (c.getD k 0 + v)

/-- The nest's part of a coordinate: level by level, q the iteration left. -/
def nestCoord : List CpLevel → Nat → List Int → List Int
  | [], _, c => c
  | l :: ls, q, c =>
    let n := l.cnt
    nestCoord ls (q / n) (addAt c l.dsel.toNat ((q % n : Nat) * l.step.toInt))

/-- coord(row, 0) (R305). -/
def CpJob.coord (j : CpJob) (row : Nat) : List Int :=
  let o := j.origin.map BitVec.toInt
  if j.nlev = 0 then addAt o 1 row
  else nestCoord ((List.range j.nlev.toNat).map fun k => j.levels.getD k {}) row o

/-- Whether a coordinate is inside the tensor (R307). -/
def coordInside (d : Desc) (c : List Int) : Bool := descInside d c && (c.drop (Desc.rank d)).all fun x => x == 0

/-- The coordinate of row `row`, column 0, of a data copy: by the nest, or by the index tile (R319). -/
def State.cpCoord (s : State) (b : BayNo) (j : CpJob) (w : CpWord) (row : Nat) : List Int :=
  if w.op = 7 ∨ w.op = 8 then
    addAt (j.origin.map BitVec.toInt) 1 (sint 32 (s.tileLin b ((s.bay b).tile w.h2) row))
  else j.coord row

/-- The inside elements of a row: column and index within the tensor's rank. -/
def insideOf (d : Desc) (c0 : List Int) (cols : Nat) : List (Nat × List Int) :=
  (List.range cols).filterMap fun (j : Nat) =>
    let c := addAt c0 0 j
    if coordInside d c then some (j, c.take (Desc.rank d)) else none

/-- Bytes that hold an inside element of a row, each once (R307). -/
def rowBytes (d : Desc) (els : List (Nat × List Int)) : Nat :=
  ((els.map fun e => (descBit d e.2).toNat / 8).eraseDups).length * max 1 (fmtBits (Desc.fmt d) / 8)

/-- Where a histogram or sidecar stands: its buffer and offset. -/
def Bay.sideAt (b : Bay) (a : Word) : BufId × Nat := (b.slotBuf (addrSlot a), addrOff a)

/-- Whether no path reaches the home of a tensor's sidecar (R407). -/
def State.sideRemote (s : State) (b : BayNo) (d : Desc) : Bool :=
  Desc.sen d && s.unreachable (s.bay b).ctx ((s.bay b).sideAt (Desc.side d)).1
/-- Whether no path reaches the home of a tensor's histogram (R407). -/
def State.histRemote (s : State) (b : BayNo) (d : Desc) : Bool :=
  Desc.hen d && s.unreachable (s.bay b).ctx ((s.bay b).sideAt (Desc.hist d)).1

/-- The fault that an element of a copy meets: its own, or that of the histogram or sidecar it counts in (R308, R407;
log 24). -/
def State.cpElemFault (s : State) (b : BayNo) (j : CpJob) (w : CpWord) (idx : List Int) : Option Nat :=
  match s.elemFault (s.bay b).ctx j.desc idx with
  | some c => some c
  | none => if w.writes && (s.histRemote b j.desc || s.sideRemote b j.desc) then some wRemote else none

/-- The fault that a row meets, before anything of the row is done: its cause, tensor and coordinate (R308, R310;
log 24). -/
def State.rowFault (s : State) (b : BayNo) (j : CpJob) : Option (Nat × Where) :=
  match cpWord? j.instr with
  | none => none
  | some w =>
    if !w.accesses then none
    else
      let t := (s.bay b).tile w.h
      (insideOf j.desc (s.cpCoord b j w j.upc) t.cols).findSome? fun e =>
        (s.cpElemFault b j w e.2).map fun c => (c, .tensor w.t (descCoord j.desc e.2))

/-! ### Histogram, sidecar, reduction (R100 to R103, R107, R321, R325) -/

/-- What a copy word sends carries its name (R304, R310). -/
def CpJob.sender (j : CpJob) (b : BayNo) (w : CpWord) (row pos : Nat) : Sender :=
  { bay := b, q := w.q, cls := w.cls, seqNo := j.ent.seqNo, row := row, tensor := w.t, pos := pos }

/-- One histogram increment on its way, if the descriptor enables one. -/
def State.countHist (s : State) (src : Sender) (d : Desc) (x : Nat) : State :=
  if Desc.hen d then
    let y := s.bay src.bay
    let h := y.sideAt (Desc.hist d)
    let o := h.2 + 4 * histBin (Desc.fmt d) (Desc.hbase d).toInt x
    ({ s with hists := s.hists ++ [{ ctx := y.ctx, buf := h.1, off := o, src := src }] } :
      State).afterEng src.bay y.ctx h.1 o 4 src.cls.toNat true true
  else s

/-- The sidecar merge of a copy's source tile on its way. -/
def State.mergeSide (s : State) (src : Sender) (d : Desc) (status : W32) : State :=
  if Desc.sen d then
    let y := s.bay src.bay
    let a := y.sideAt (Desc.side d)
    ({ s with sides := s.sides ++ [{ ctx := y.ctx, buf := a.1, off := a.2, status := status, src := src }] } :
      State).afterEng src.bay y.ctx a.1 a.2 4 src.cls.toNat true true
  else s

/-- The quantised value of cp.red and, with a residual, what the residual becomes (R321). A sum that is exactly zero
has the sign of two addends of one sign; with addends of both signs it is −0 under RND 2, else +0 (DESIGN CHOICE, log 71).
Infinity − infinity raises NV alone, for an integer F too: the NaN is this operation's own, not one it read (DESIGN CHOICE,
log 72). -/
def redQuant (fs f : Fmt) (rnd keyed x : Nat) (r : Option Nat) : Res × Res :=
  let a := decodeVal fs x
  match r with
  | none => (convert f rnd keyed a, ⟨0, 0, 0⟩)
  | some y =>
    let sum := (({} : Sum).add a).add (decodeVal Fmt.fp32 y)
    let q :=
      if sum.isNaN then nanRes f sum.nanFlags
      else if sum.pinf || sum.ninf then infRes f sum.ninf
      else sum.finish f rnd keyed
    (q, (sum.add (decodeVal f q.bits).negated).finish Fmt.fp32 0 0)

/-- The flags of R321's residual rounding that STATUS(s) takes. -/
def residualFlags : Byte := flNV ||| flOF ||| flUF ||| flNX

/-- One inside element of cp.red. -/
def State.redElem (s : State) (b : BayNo) (j : CpJob) (w : CpWord) (row col : Nat) (idx : List Int) : State :=
  let y := s.bay b
  let t := y.tile w.h
  let f := Desc.fmt j.desc
  let x := s.tileElem b t row col
  let r := if w.res then some (s.tileElem b (y.tile w.h2) row col) else none
  let keyed := srkBits j.ent.seed (Desc.stream j.desc) (descCoord j.desc idx) j.ent.step
  let q := redQuant t.fmt f w.rnd keyed x r
  let s1 := if w.res then s.setTileElem b (y.tile w.h2) row col q.2.bits else s
  let s2 := s1.raiseTile b w.h (q.1.flags ||| (q.2.flags &&& residualFlags)) q.1.satc
  let red : Red :=
    { ctx := y.ctx, buf := Desc.buf j.desc, bit := (descBit j.desc idx).toNat, fmt := f, op := BitVec.ofNat 2 w.rop,
      bits := q.1.bits, src := j.sender b w row (descCoord j.desc idx),
      side := if Desc.sen j.desc then some (y.sideAt (Desc.side j.desc)) else none,
      hist := if Desc.hen j.desc then
          some ((y.sideAt (Desc.hist j.desc)).1, (y.sideAt (Desc.hist j.desc)).2, Desc.hbase j.desc) else none }
  { s2 with reds := s2.reds ++ [red] }.afterEng b y.ctx red.buf (red.bit / 8) ((fmtBits f + 7) / 8) w.cls.toNat true true

/-! ### One row (R310, R315 to R323) -/

/-- One inside element of a copy that reads or writes its tensor. -/
def State.cpElem (s : State) (b : BayNo) (j : CpJob) (w : CpWord) (row : Nat) (e : Nat × List Int) : State :=
  let t := (s.bay b).tile w.h
  if w.op = 3 ∨ w.op = 7 then
    let r := s.loadElem b w.cls.toNat j.desc e.2
    r.2.setTileElem b t row e.1 r.1
  else if w.op = 9 then s.redElem b j w row e.1 e.2
  else
    let x := s.tileElem b t row e.1
    (s.storeElem b w.cls.toNat j.desc e.2 x).countHist (j.sender b w row (descCoord j.desc e.2)) j.desc x

/-- PAD bits of a format (R307). -/
def padBits (pad : W32) (f : Fmt) : Nat := pad.toNat % 2 ^ fmtBits f

/-- A row of cp.t2t (R318). -/
def State.t2tRow (s : State) (b : BayNo) (j : CpJob) (w : CpWord) (row : Nat) : State :=
  let y := s.bay b
  let src := y.tile w.h
  let dst := y.tile w.h2
  (List.range dst.cols).foldl (fun s col =>
    if row < src.rows ∧ col < src.cols then
      let x := s.tileElem b src row col
      if src.fmt = dst.fmt then s.setTileElem b dst row col x
      else
        let idx := (addAt (j.coord row) 0 col).take (Desc.rank j.desc)
        let keyed := if w.rnd = 5 then srkBits j.ent.seed (Desc.stream j.desc) (descCoord j.desc idx) j.ent.step else 0
        let r := convert dst.fmt w.rnd keyed (decodeVal src.fmt x)
        (s.setTileElem b dst row col r.bits).raiseTile b w.h2 r.flags r.satc
    else s.setTileElem b dst row col (padBits j.pad dst.fmt)) s

/-- Row UPC of a data copy, which meets no fault. -/
def State.cpRow (s : State) (b : BayNo) (j : CpJob) (w : CpWord) : State × Nat :=
  let t := (s.bay b).tile w.h
  let row := j.upc
  if w.op = 6 then (s.t2tRow b j w row, 0)
  else if w.op = 5 then
    ((List.range t.cols).foldl (fun s col => s.setTileElem b t row col (padBits j.pad t.fmt)) s, 0)
  else
    let els := insideOf j.desc (s.cpCoord b j w row) t.cols
    let s1 :=
      if (w.op = 3 ∨ w.op = 7) ∧ els.length ≠ t.cols then
        ((List.range t.cols).foldl (fun s col => s.setTileElem b t row col (padBits j.pad t.fmt)) s).raiseTile b w.h flOOB 0
      else s
    (els.foldl (fun s e => s.cpElem b j w row e) s1, rowBytes j.desc els)

/-- Whether every row of a copy is completed. -/
def Bay.cpRowsDone (b : Bay) (j : CpJob) : Bool :=
  match cpWord? j.instr with
  | some w => decide ((b.tile w.shape).rows ≤ j.upc)
  | none => true

/-- Whether the word fault that is held is that of an executing copy: the copy stands still until it is resumed or skipped
(R310, R377). -/
def Bay.heldCopy (b : Bay) (q : BitVec 1) (j : CpJob) : Bool :=
  b.wf.valid && b.wf.qid.toNat == 2 + q.toNat && j.index == b.wf.index

/-- Whether anything satisfies p of what copy words have on its way to a home: values, increments, merges. -/
def State.onWay (s : State) (p : Sender → Bool) : Bool :=
  s.reds.any (fun r => p r.src) || s.hists.any (fun r => p r.src) || s.sides.any fun r => p r.src

/-- Whether a copy ahead in its queue has made its accesses but for what is on its way: a cp.peer's release and signal come
at its end (R323), a sidecar merge after the last row (R325). -/
def Bay.accessesMade (b : Bay) (j : CpJob) : Bool :=
  b.cpRowsDone j && match cpWord? j.instr with
    | some w => w.op != 10 && (!w.writes || !Desc.sen j.desc || j.merged)
    | none => true

/-- Whether row UPC of the k-th executing copy of a queue may go on: copies of its class ahead of it have made their
accesses, those at homes included (R304), and no stop holds it (R310). -/
def State.cpMoves (s : State) (b : BayNo) (q : BitVec 1) (k : Nat) (j : CpJob) : Bool :=
  let y := s.bay b
  let ahead := (y.cp q).jobs.take k
  let cls (i : Instr) : Option (BitVec 4) := match cpWord? i with
    | some w => if w.accesses then some w.cls else none
    | none => none
  !y.cpRowsDone j && !y.saving &&
    (match cpWord? j.instr with
     | some w => !w.accesses || !s.onWay fun x => x.sameQueue (j.sender b w 0 0) && x.seqNo != j.ent.seqNo
     | none => true) &&
    (cls j.instr == none || ahead.all fun a => cls a.instr != cls j.instr || y.accessesMade a) &&
    !((ahead ++ [j]).any (y.heldCopy q) ||
      y.wf.valid && ahead.any fun a => !y.cpRowsDone a && (s.rowFault b a).isSome)

/-- Replaces the k-th executing copy of a queue. -/
def Bay.setJob (b : Bay) (q : BitVec 1) (k : Nat) (j : CpJob) : Bay :=
  b.modCp q fun c => { c with jobs := c.jobs.set k j }

/-! ### What is on its way to a home (R103, R107, R188, R322, R407) -/

/-- Whether the home of a value, or of what it counts in, is out of reach (R407). -/
def State.redLost (s : State) (r : Red) : Bool :=
  s.unreachable r.ctx r.buf || (r.side.any fun e => s.unreachable r.ctx e.1) || r.hist.any fun e => s.unreachable r.ctx e.1
/-- Whether the home of an increment is out of reach. -/
def State.histLost (s : State) (r : Hist) : Bool := s.unreachable r.ctx r.buf
/-- Whether the home of a merge is out of reach. -/
def State.sideLost (s : State) (r : Side) : Bool := s.unreachable r.ctx r.buf

/-- The first request on its way from senders that p admits which fails for want of a path (R407). -/
def State.lostFrom (s : State) (p : Sender → Bool) : Option Sender :=
  (((s.reds.filter fun r => p r.src && s.redLost r).map Red.src) ++
    ((s.hists.filter fun r => p r.src && s.histLost r).map Hist.src) ++
    ((s.sides.filter fun r => p r.src && s.sideLost r).map Side.src)).head?

/-- A word one of whose requests has failed goes on, if at all, at the row that sent it; once its source tile is read, the
rows stand, and of what failed a merge alone is made again (R310; log 24). -/
def Sender.recall (x : Sender) (merge : Bool) (b : Bay) : Bay :=
  b.modCp x.q fun c => { c with jobs := c.jobs.map fun j =>
    if j.ent.seqNo != x.seqNo then j
    else if merge then { j with merged := false }
    else if j.srcDone then j else { j with upc := min j.upc x.row } }

/-- What senders that p admits have on its way arrives at its home, in its order; what fails for want of a path is gone
(R188, R407). -/
def State.settle (s : State) (p : Sender → Bool) : State :=
  let s1 := (s.reds.filter fun r => p r.src && s.redLost r).foldl (fun s r => s.modBay r.src.bay (r.src.recall false))
    { s with reds := s.reds.filter fun r => !(p r.src && s.redLost r) }
  let s2 := (s1.reds.filter fun r => p r.src).foldl State.redOne { s1 with reds := s1.reds.filter fun r => !p r.src }
  let s3 := (s2.hists.filter fun r => p r.src && s2.histLost r).foldl (fun s r => s.modBay r.src.bay (r.src.recall false))
    { s2 with hists := s2.hists.filter fun r => !(p r.src && s2.histLost r) }
  let s4 := (s3.hists.filter fun r => p r.src).foldl State.histOne { s3 with hists := s3.hists.filter fun r => !p r.src }
  let s5 := (s4.sides.filter fun r => p r.src && s4.sideLost r).foldl (fun s r => s.modBay r.src.bay (r.src.recall true))
    { s4 with sides := s4.sides.filter fun r => !(p r.src && s4.sideLost r) }
  (s5.sides.filter fun r => p r.src).foldl State.sideOne { s5 with sides := s5.sides.filter fun r => !p r.src }

/-- Everything that a bay's copies have on its way arrives. -/
def State.settleBay (s : State) (b : BayNo) : State := s.settle fun x => x.bay == b

/-- Whether something was sent by a given word of a copy queue. -/
def CpJob.sent (j : CpJob) (b : BayNo) (q : BitVec 1) (x : Sender) : Bool :=
  x.bay == b && x.q == q && x.seqNo == j.ent.seqNo

/-- A word fault of an executing copy: what it has on its way arrives, and it stops at its micro-PC (R310, R377); a fault
that cannot be recorded now leaves it as it stands (R380). -/
def State.cpFault (s : State) (b : BayNo) (q : BitVec 1) (k : Nat) (j : CpJob) (cause : Nat) (at' : Where) : State :=
  if !(s.bay b).records (2 + q.toNat) then s
  else
    let s1 := s.settle (j.sent b q)
    s1.modBay b fun y => y.wordFault (2 + q.toNat) j.ent j.index cause (((y.cp q).jobs[k]?).getD j).upc at'

/-- A request that arrives nowhere: its word raises "remote" at the element concerned (R407). -/
def State.lose (s : State) (x : Sender) : State :=
  match (((s.bay x.bay).cp x.q).jobs).findIdx? fun j => j.ent.seqNo == x.seqNo with
  | none => s.settle fun y => y == x
  | some k =>
    match (((s.bay x.bay).cp x.q).jobs)[k]? with
    | none => s
    | some j => s.cpFault x.bay x.q k j wRemote (.tensor x.tensor x.pos)

/-- One row of the k-th executing copy of a queue, or its fault. -/
def State.stepCp (s : State) (b : BayNo) (q : BitVec 1) (k : Nat) : State :=
  match ((s.bay b).cp q).jobs[k]? with
  | none => s
  | some j =>
    match cpWord? j.instr with
    | none => s
    | some w =>
      if !s.cpMoves b q k j then s
      else match s.rowFault b j with
      | some f => s.cpFault b q k j f.1 f.2
      | none =>
        let r := s.cpRow b j w
        r.1.modBay b fun y =>
          (y.setJob q k { j with upc := j.upc + 1, bytes := j.bytes + r.2 }).modCp q fun c =>
            { c with bytes := c.bytes + BitVec.ofNat 64 r.2 }

/-- Rows of the k-th executing copy until they are done or it stops. -/
def State.runCp (s : State) (b : BayNo) (q : BitVec 1) (k : Nat) : Nat → State
  | 0 => s
  | n + 1 =>
    match ((s.bay b).cp q).jobs[k]? with
    | none => s
    | some j => if s.cpMoves b q k j then (s.stepCp b q k).runCp b q k n else s

/-! ### Completion (R150, R307, R318, R321, R323, R325) -/

/-- Whether a copy whose rows are done has its status still to send to a sidecar (R107, R325). -/
def CpJob.mustMerge (j : CpJob) : Bool := (cpWord? j.instr).any fun w => w.writes && Desc.sen j.desc && !j.merged

/-- The source tile is read to its last element (R150), and its status goes to the sidecar; out of the sidecar's reach
the word faults (R407; log 24). -/
def State.cpSourceRead (s : State) (b : BayNo) (q : BitVec 1) (k : Nat) : State :=
  match ((s.bay b).cp q).jobs[k]? with
  | none => s
  | some j =>
    match cpWord? j.instr with
    | none => s
    | some w =>
      match w.source with
      | none => s
      | some h =>
        if !(s.bay b).cpRowsDone j || (s.bay b).heldCopy q j || (j.srcDone && !j.mustMerge) then s
        else if j.mustMerge && s.sideRemote b j.desc then s.cpFault b q k j wRemote w.tensor
        else
          let st := if j.srcDone then j.srcStatus else ((s.bay b).tile h).status
          (if j.mustMerge then s.mergeSide (j.sender b w j.upc 0) j.desc st else s).modBay b fun y =>
            (if j.srcDone then y else y.setTile h (y.tile h).drained).setJob q k
              { j with srcDone := true, srcStatus := st, merged := true }

/-- The signal and release of cp.peer (R323). -/
def State.peerEnd (s : State) (b : BayNo) (j : CpJob) (w : CpWord) : State :=
  let s1 := s.release (shedOf b) (classBit w.cls.toNat) 3
  if w.sig then
    let c := (s.bay b).ctx
    let e := j.desc2
    (s1.amo (shedOf b) w.cls.toNat c (Desc.buf e) (Desc.off e) 4 fun v => v + 1).2.afterEng b c (Desc.buf e) (Desc.off e) 4
      w.cls.toNat true true
  else s1

/-- The status word that cp.t2t hands on (R318). -/
def t2tStatus (dst src : W32) : W32 :=
  mkStatus (stGcnt src) (stSatc dst + stSatc src) (stFlags dst ||| stFlags src)

/-- The end of a copy whose rows are done: what it has on its way arrives first, since each of its writes is performed (R103,
R107, R188); one with a request, a sidecar or a signal out of reach faults instead (R407; log 24). -/
def State.cpEnd (s : State) (b : BayNo) (q : BitVec 1) (k : Nat) : State :=
  match ((s.bay b).cp q).jobs[k]? with
  | none => s
  | some j =>
    match cpWord? j.instr with
    | none => s
    | some w =>
      let s0 := s.cpSourceRead b q k
      if !(s.bay b).cpRowsDone j || (s.bay b).heldCopy q j then s
      else if j.mustMerge && s.sideRemote b j.desc then s0
      else match s0.lostFrom (j.sent b q) with
      | some x => s0.lose x
      | none =>
      if w.sig && s.unreachable (s.bay b).ctx (Desc.buf j.desc2) then
        s0.cpFault b q k j wRemote (.tensor w.std 0)
      else
        let s1 := s0.settle (j.sent b q)
        let srcStatus := ((((s1.bay b).cp q).jobs[k]?).map CpJob.srcStatus).getD 0
        let s2 := if w.op = 10 then s1.peerEnd b j w else s1
        let s3 := s2.modBay b fun y => y.modCp q fun c =>
          { c with last := BitVec.ofNat 64 j.bytes, jobs := c.jobs.eraseIdx k }
        match w.into with
        | some h => s3.modTile b h fun t =>
            { t with state := 2, status := if w.op = 6 then t2tStatus t.status srcStatus else t.status }
        | none => s3

/-- COPY_SOURCE_READ (R150): the rows left are moved, and the source tile takes its state. -/
def execCopySourceRead (bay : BayNo) (q : BitVec 1) (k : BitVec 2) (s : State) : Out :=
  onBay s bay fun s => (s.runCp bay q k.toNat 4096).cpSourceRead bay q k.toNat

/-- COPY_COMPLETE (R150, R310): the rows left are moved, and the copy ends. -/
def execCopyComplete (bay : BayNo) (q : BitVec 1) (k : BitVec 2) (s : State) : Out :=
  onBay s bay fun s => (s.runCp bay q k.toNat 4096).cpEnd bay q k.toNat

/-- A skipped copy (R150, R310, R325): its tile states follow, and it merges nothing. A skipped cp.peer makes neither its
release nor its signal (DESIGN CHOICE, log 72). -/
def Bay.cpSkip (b : Bay) (q : BitVec 1) (k : Nat) : Bay :=
  match (b.cp q).jobs[k]? with
  | none => b
  | some j =>
    let b1 := b.modCp q fun c => { c with last := BitVec.ofNat 64 j.bytes, jobs := c.jobs.eraseIdx k }
    match cpWord? j.instr with
    | none => b1
    | some w =>
      let b2 := match w.source with
        | some h => if j.srcDone then b1 else b1.setTile h (b1.tile h).drained
        | none => b1
      match w.into with
      | some h => b2.setTile h { b2.tile h with state := 0 }
      | none => b2

/-! ### Arrivals at the homes (R103, R107, R322) -/

/-- REDUCTION_AT_HOME (R322): the k-th value on its way is performed, unless an earlier one of its class and queue is
still on its way (R304); out of reach it fails (R407). -/
def execReductionAtHome (k : Nat) (s : State) : Out :=
  match s.reds[k]? with
  | some r =>
    if (s.reds.take k).any fun x => r.src.sameQueue x.src then .next s
    else if s.redLost r then .next (s.lose r.src)
    else .next (({ s with reds := s.reds.eraseIdx k } : State).redOne r)
  | none => .next s

/-- HISTOGRAM_INCREMENT (R103); out of reach it fails (R407). -/
def execHistogramIncrement (k : Nat) (s : State) : Out :=
  match s.hists[k]? with
  | some r =>
    if s.histLost r then .next (s.lose r.src)
    else .next (({ s with hists := s.hists.eraseIdx k } : State).histOne r)
  | none => .next s

/-- SIDECAR_MERGE (R107); out of reach it fails (R407). -/
def execSidecarMerge (k : Nat) (s : State) : Out :=
  match s.sides[k]? with
  | some r =>
    if s.sideLost r then .next (s.lose r.src)
    else .next (({ s with sides := s.sides.eraseIdx k } : State).sideOne r)
  | none => .next s

/-! ### Control copies (R311 to R314) -/

/-- A control copy at the head of queue q. -/
def State.cpControl (s : State) (q : BitVec 1) (f : Cp → Cp) : Out :=
  onHead s (2 + q.toNat) fun _ s => (s.issueHead (2 + q.toNat)).modBay s.cur fun b => b.modCp q f

/-- The first n entries of a list, filled up with a default, with entry k replaced. -/
def setAt {α : Type} (d : α) (n : Nat) (l : List α) (k : Nat) (v : α) : List α :=
  (List.range n).map fun i => if i = k then v else l.getD i d

/-- CP_LOOP (R311): the word holds CNT less 1. -/
def execCpLoop (q : BitVec 1) (lev dsel : BitVec 3) (cnt1 : BitVec 12) (nlev : BitVec 4) (step : BitVec 16) (s : State) :
    Out :=
  if 8 < nlev.toNat then onHead s (2 + q.toNat) fun e s => s.judged (2 + q.toNat) e (wIllegal, .nothing)
  else s.cpControl q fun c =>
    { c with nlev := nlev, levels := setAt {} 8 c.levels lev.toNat { dsel := dsel, step := step, cnt := cnt1.toNat + 1 } }

/-- CP_ORG (R312). -/
def execCpOrg (q : BitVec 1) (val : BitVec 24) (add : BitVec 1) (comp : BitVec 3) (s : State) : Out :=
  s.cpControl q fun c =>
    { c with orgv := 1, org := setAt 0 8 c.org comp.toNat (if add = 1 then c.org.getD comp.toNat 0 + val else val) }

/-- CP_PAD (R313). -/
def execCpPad (q : BitVec 1) (pad : W32) (s : State) : Out := s.cpControl q fun c => { c with pad := pad }

/-! ### Data copies -/

/-- CP_IN (R315). -/
def execCpIn (c : BitVec 4) (t : BitVec 12) (h : BitVec 8) (s : State) : Out := s.copy (.cpIn c t h)
/-- CP_IN in cout (R315). -/
def execCpInCout (c : BitVec 4) (t : BitVec 12) (h : BitVec 8) (s : State) : Out := s.copy (.cpInCout c t h)
/-- CP_OUT (R315). -/
def execCpOut (c : BitVec 4) (t : BitVec 12) (h : BitVec 8) (s : State) : Out := s.copy (.cpOut c t h)
/-- CP_OUT in cin (R315). -/
def execCpOutCin (c : BitVec 4) (t : BitVec 12) (h : BitVec 8) (s : State) : Out := s.copy (.cpOutCin c t h)
/-- CP_FILL (R317). -/
def execCpFill (t : BitVec 12) (h : BitVec 8) (s : State) : Out := s.copy (.cpFill t h)
/-- CP_FILL in cin (R317). -/
def execCpFillCin (t : BitVec 12) (h : BitVec 8) (s : State) : Out := s.copy (.cpFillCin t h)
/-- CP_T2T (R318). -/
def execCpT2t (q : BitVec 1) (t : BitVec 12) (src tdst : BitVec 8) (rnd : BitVec 3) (s : State) : Out :=
  s.copy (.cpT2t q t src tdst rnd)
/-- CP_GATH (R319). -/
def execCpGath (q : BitVec 1) (c : BitVec 4) (t : BitVec 12) (h ti : BitVec 8) (s : State) : Out :=
  s.copy (.cpGath q c t h ti)
/-- CP_SCAT (R319). -/
def execCpScat (q : BitVec 1) (c : BitVec 4) (t : BitVec 12) (h ti : BitVec 8) (s : State) : Out :=
  s.copy (.cpScat q c t h ti)
/-- CP_RED (R321). -/
def execCpRed (q : BitVec 1) (c : BitVec 4) (t : BitVec 12) (h : BitVec 8) (op : BitVec 2) (rnd : BitVec 3)
    (res : BitVec 1) (tr : BitVec 8) (s : State) : Out :=
  s.copy (.cpRed q c t h op rnd res tr)
/-- CP_PEER (R323). -/
def execCpPeer (q : BitVec 1) (c : BitVec 4) (t : BitVec 12) (h : BitVec 8) (sig : BitVec 1) (std : BitVec 12)
    (s : State) : Out :=
  s.copy (.cpPeer q c t h sig std)

/-! ### cp.drain (R324) -/

/-- Whether an entry is a data copy of a class that makes accesses, accepted before number n. -/
def drainWaits (cls : BitVec 4) (n : Nat) (e : Entry) : Bool :=
  e.kind == .word && decide (e.seqNo < n) && (wordE e.w == 3 || wordE e.w == 4) &&
    (let op := (field e.w 24 5).toNat
     op == 3 || op == 4 || (decide (7 ≤ op) && decide (op ≤ 10))) && field e.w 20 4 == cls

/-- Whether a copy of the class that the fairlead accepted before number n has still to complete. -/
def Bay.drainPending (b : Bay) (cls : BitVec 4) (n : Nat) : Bool :=
  [b.cin, b.cout].any (fun q => (q.wait ++ q.ent).any (drainWaits cls n)) ||
    [b.cpIn, b.cpOut].any fun c => c.jobs.any fun j => drainWaits cls n j.ent

/-- A cp.drain at the head of a copy queue. -/
def State.drain (s : State) (q : Nat) (c : BitVec 4) (scope : BitVec 3) : Out :=
  onHead s q fun e s =>
    if (s.bay s.cur).drainPending c e.seqNo then s
    else ((s.settle fun x => x.bay == s.cur && x.cls == c && decide (x.seqNo < e.seqNo)).release (shedOf s.cur)
      (classBit c.toNat) scope.toNat).issueHead q

/-- CP_DRAIN (R324). -/
def execCpDrain (c : BitVec 4) (scope : BitVec 3) (s : State) : Out := s.drain 3 c scope
/-- CP_DRAIN in cin (R324). -/
def execCpDrainCin (c : BitVec 4) (scope : BitVec 3) (s : State) : Out := s.drain 2 c scope

end Sys2Proof.Machine
end

