-- ==== Sys2Proof/Machine/ClassEngine.lean ====
section
/-! DEFINITION. The class engine: the sparse words kx.ild, kx.spmm, kx.bspmm, kx.sddmm and kx.spadd, and the sort words
(R329 to R346). -/
namespace Sys2Proof.Machine

/-! ### Index tiles (R334, R335) -/

/-- The integer at a linear position of a tile. -/
def State.idxAt (s : State) (b : BayNo) (t : Tile) (l : Nat) : Int := intOf t.fmt (s.tileLin b t l)

/-- The header, if it keeps R335's check at judging with the given limits; zero asks rp[0] = 0. -/
def State.idxHead (s : State) (b : BayNo) (t : Tile) (mMax ncMax : Nat) (zero : Bool) : Option IdxHead :=
  let m := s.idxAt b t 0
  let nc := s.idxAt b t 1
  if t.fmt ≠ Fmt.i32 ∨ t.size < 4 ∨ m < 1 ∨ (mMax : Int) < m ∨ nc < 1 ∨ (ncMax : Int) < nc then none
  else if (t.size : Int) < m + 3 then none
  else
    let g0 := s.idxAt b t 2
    let nnz := s.idxAt b t (m.toNat + 2) - g0
    if (zero ∧ g0 ≠ 0) ∨ nnz < 0 ∨ (t.size : Int) < m + 3 + nnz then none
    else some { m := m.toNat, nc := nc.toNat, nnz := nnz.toNat, first := g0 }

/-- rp[i], counted from the latched first pointer (R334, R336). -/
def State.rowPtr (s : State) (b : BayNo) (t : Tile) (h : IdxHead) (i : Nat) : Int := s.idxAt b t (i + 2) - h.first

/-- col[k]. -/
def State.colAt (s : State) (b : BayNo) (t : Tile) (m k : Nat) : Int := s.idxAt b t (m + 3 + k)

/-- The entries of row i. -/
def State.rowEntries (s : State) (b : BayNo) (t : Tile) (h : IdxHead) (i : Nat) : List Nat :=
  let lo := (s.rowPtr b t h i).toNat
  (List.range ((s.rowPtr b t h (i + 1)).toNat - lo)).map fun k => lo + k

/-- The linear position of the element that breaks R335's check of row i. -/
def State.rowBreak (s : State) (b : BayNo) (t : Tile) (h : IdxHead) (i : Nat) : Option Nat :=
  let lo := s.rowPtr b t h i
  let hi := s.rowPtr b t h (i + 1)
  if hi < lo ∨ (h.nnz : Int) < hi then some (i + 3)
  else
    ((s.rowEntries b t h i).find? fun k =>
      let c := s.colAt b t h.m k
      decide (c < 0) || decide ((h.nc : Int) ≤ c) ||
        (decide (lo.toNat < k) && decide (c ≤ s.colAt b t h.m (k - 1)))).map fun k => h.m + 3 + k

/-! ### Number rules (R337) -/

/-- Operand formats: every code but I32 and the reserved one. -/
def kxOperand (f : Fmt) : Bool := f != Fmt.i32 && f != 0xF
/-- The output format that the operand formats ask for; `wide` lets integer outputs be any of group IA (kx.spadd). -/
def kxOutput (wide allInt : Bool) (f : Fmt) : Bool :=
  if allInt then (if wide then fmtIA f else f == Fmt.i32) else fmtFA f
/-- RND and SAT as the output allows. -/
def kxModes (allInt : Bool) (rnd : BitVec 3) (sat : BitVec 1) : Bool := if allInt then rnd == 0 else sat == 0

/-- An output element from its exact sum; an exact zero has R98's sign in every rounding mode. -/
def kxRound (allInt : Bool) (f : Fmt) (rnd sat keyed : Nat) (sum : Sum) : Res :=
  if allInt then intRes f (sat == 1) (sum.m * (2 ^ sum.e.toNat : Nat))
  else if sum.m = 0 ∧ !sum.isNaN ∧ !sum.pinf ∧ !sum.ninf then roundTo f rnd keyed (sum.zeroNeg 0) 0 0
  else sum.finish f rnd keyed

/-! ### Judging (R331, R335 to R339, R345) -/

/-- Whether a bay's class engine implements a word (R329). -/
def kxImplemented (kind : Nat) : Instr → Bool
  | .kxIld _ _ | .kxSpmm _ | .kxBspmm _ | .kxSddmm _ | .kxSpadd _ _ _ _ _ _ _ => kind == 4
  | _ => kind == 6

/-- The tiles that a class-engine word names, in the order of its assembly form. -/
def kxTiles : Instr → List Byte
  | .kxIld ts ti => [ti, ts]
  | .kxSpmm f => [f.out, f.ti, f.tx, f.tb]
  | .kxBspmm f => [f.out, f.ti, f.tx, f.tb]
  | .kxSddmm f => [f.out, f.ti, f.tx, f.tb]
  | .kxSpadd _ _ tv ti tc _ _ => [tc, ti, tv]
  | .kxSort f _ tcn cen => [f.tk] ++ (if f.ven = 1 then [f.tv] else []) ++ if cen = 1 then [tcn] else []
  | .kxMerge f tl _ => [f.tk] ++ (if f.ven = 1 then [f.tv] else []) ++ [tl]
  | .kxSsort f tl _ => [f.tk] ++ (if f.ven = 1 then [f.tv] else []) ++ [tl]
  | .kxCmpct _ ven tv tk _ tcn cen => [tk] ++ (if ven = 1 then [tv] else []) ++ if cen = 1 then [tcn] else []
  | .kxUniq _ ven tv tk => [tk] ++ if ven = 1 then [tv] else []
  | .kxTopk f _ _ => [f.tk] ++ if f.ven = 1 then [f.tv] else []
  | _ => []

/-- Whether the tiles are in the states that R151 asks: kx.ild is a copy into its index tile. One whose source is that very
tile, which R336 makes illegal, is judged once the tile is ready or empty (DEDUCED, log 64). -/
def Bay.kxReady (b : Bay) (i : Instr) : Bool :=
  match i with
  | .kxIld ts ti => if ts = ti then b.ready ts || (b.tile ti).state == 0 else (b.tile ti).state == 0 && b.ready ts
  | _ => (kxTiles i).all b.ready

/-- A sort word in one shape: key type, order, tiles, and where its count comes from. -/
structure KxSortWord where
  kt : Nat
  desc : Bool
  ven : Bool
  tv : Byte
  tk : Byte
  n : Nat := 0
  tcn : Option Byte := none
  seg : Option (Byte × Nat) := none
deriving DecidableEq, Repr

/-- The common fields of a sort word. -/
def kxSortOf (f : KxKey) : KxSortWord :=
  { kt := f.kt.toNat, desc := f.desc == 1, ven := f.ven == 1, tv := f.tv, tk := f.tk }

/-- The fields of a sort word. -/
def kxSortWord? : Instr → Option KxSortWord
  | .kxSort f n tcn cen => some { kxSortOf f with n := n.toNat, tcn := if cen = 1 then some tcn else none }
  | .kxMerge f tl nseg => some { kxSortOf f with seg := some (tl, nseg.toNat) }
  | .kxSsort f tl nseg => some { kxSortOf f with seg := some (tl, nseg.toNat) }
  | .kxCmpct kt ven tv tk n tcn cen =>
    some { kt := kt.toNat, desc := false, ven := ven == 1, tv := tv, tk := tk, n := n.toNat,
           tcn := if cen = 1 then some tcn else none }
  | .kxUniq kt ven tv tk => some { kt := kt.toNat, desc := false, ven := ven == 1, tv := tv, tk := tk }
  | .kxTopk f n _ => some { kxSortOf f with n := n.toNat }
  | _ => none

/-- The segment lengths of a form S word. -/
def State.sortLens (s : State) (b : BayNo) (w : KxSortWord) : List Nat :=
  match w.seg with
  | some (tl, n) => (List.range n).map fun k => s.tileLin b ((s.bay b).tile tl) k
  | none => []

/-- The count that a sort word takes at issue (R342, R343). -/
def State.sortCount (s : State) (b : BayNo) (w : KxSortWord) : Nat :=
  if w.seg.isSome then (s.sortLens b w).sum else if w.n = 0 then (s.bay b).kx.cnt.toNat else w.n

/-- R345, operand by operand. TCN counts as an operand under CEN = 1 alone, and TV under VEN = 1 (DEDUCED, log 71). -/
def State.sortChecks (s : State) (b : BayNo) (w : KxSortWord) : List (Bool × Nat × Where) :=
  let y := s.bay b
  let n := s.sortCount b w
  let tk := y.tile w.tk
  let tv := y.tile w.tv
  let key := bad (tk.fmt == (if w.kt = 2 then Fmt.fp32 else Fmt.i32) &&
    decide ((if w.kt = 3 then 2 * n else n) ≤ tk.size)) w.tk
  let val := bad (!w.ven || ((tv.fmt == Fmt.i32 || tv.fmt == Fmt.fp32) && w.tv != w.tk && decide (n ≤ tv.size))) w.tv
  let seg := match w.seg with
    | some (tl, k) =>
      let t := y.tile tl
      [bad (t.fmt == Fmt.n16 && decide (1 ≤ k) && decide (k ≤ t.size) && decide (1 ≤ n) && decide (n ≤ 65535)) tl]
    | none => []
  let cnt := match w.tcn with
    | some h => [bad ((y.tile h).fmt == Fmt.i32 && h != w.tk && !(w.ven && h == w.tv)) h]
    | none => []
  -- a broken length tile is named only if the key and value tiles are right by their own formats
  [key, val] ++ seg ++ cnt

/-- The limits of an index tile: rows and columns, in blocks under blk. -/
def idxLimits (blk : Bool) : Nat × Nat := if blk then (256, 4096) else (4096, 65536)

/-- The checks of kx.spmm (blk: kx.bspmm). -/
def State.spmmChecks (s : State) (b : BayNo) (f : KxMul) (blk : Bool) : List (Bool × Nat × Where) :=
  let y := s.bay b
  let tc := y.tile f.out
  let ti := y.tile f.ti
  let tv := y.tile f.tx
  let tb := y.tile f.tb
  let u := if blk then 16 else 1
  let lim := idxLimits blk
  let head := s.idxHead b ti lim.1 lim.2 true
  let h := head.getD {}
  let ints := fmtIsInt tv.fmt && fmtIsInt tb.fmt
  [bad (f.out != f.ti && f.out != f.tx && f.out != f.tb && kxOutput false ints tc.fmt && kxModes ints f.rnd f.sat &&
     decide (u * h.m ≤ tc.rows)) f.out,
   bad head.isSome f.ti,
   bad (kxOperand tv.fmt && decide (u * u * h.nnz ≤ tv.size)) f.tx,
   bad (kxOperand tb.fmt && decide (u * h.nc ≤ tb.rows) && decide (tc.cols ≤ tb.cols)) f.tb]

/-- The checks of kx.sddmm. -/
def State.sddmmChecks (s : State) (b : BayNo) (f : KxMul) : List (Bool × Nat × Where) :=
  let y := s.bay b
  let tc := y.tile f.out
  let ta := y.tile f.tx
  let tb := y.tile f.tb
  let head := s.idxHead b (y.tile f.ti) 4096 65536 true
  let h := head.getD {}
  let ints := fmtIsInt ta.fmt && fmtIsInt tb.fmt
  [bad (f.out != f.ti && f.out != f.tx && f.out != f.tb && kxOutput false ints tc.fmt && kxModes ints f.rnd f.sat &&
     decide (h.nnz ≤ tc.size)) f.out,
   bad head.isSome f.ti,
   bad (kxOperand ta.fmt && decide (h.m ≤ ta.rows)) f.tx,
   bad (kxOperand tb.fmt && decide (ta.cols ≤ tb.rows) && decide (h.nc ≤ tb.cols)) f.tb]

/-- The checks of kx.spadd. -/
def State.spaddChecks (s : State) (b : BayNo) (blk : BitVec 1) (tv ti tc : Byte) (rnd : BitVec 3) (sat : BitVec 1) :
    List (Bool × Nat × Where) :=
  let y := s.bay b
  let u := if blk = 1 then 16 else 1
  let lim := idxLimits (blk == 1)
  let head := s.idxHead b (y.tile ti) lim.1 lim.2 true
  let h := head.getD {}
  let ints := fmtIsInt (y.tile tv).fmt
  [bad (tc != ti && tc != tv && kxOutput true ints (y.tile tc).fmt && kxModes ints rnd sat &&
     decide (u * h.m ≤ (y.tile tc).rows) && decide (u * h.nc ≤ (y.tile tc).cols)) tc,
   bad head.isSome ti,
   bad (kxOperand (y.tile tv).fmt && decide (u * u * h.nnz ≤ (y.tile tv).size)) tv]

/-- The checks of kx.ild. -/
def State.ildChecks (s : State) (b : BayNo) (ts ti : Byte) : List (Bool × Nat × Where) :=
  let y := s.bay b
  let head := s.idxHead b (y.tile ts) 4096 65536 false
  let h := head.getD {}
  [bad (ti != ts && (y.tile ti).fmt == Fmt.i32 && decide (h.m + 3 + h.nnz ≤ (y.tile ti).size)) ti,
   bad head.isSome ts]

/-- Step 3 of R331. -/
def State.kxChecks (s : State) (b : BayNo) (i : Instr) : List (Bool × Nat × Where) :=
  match i with
  | .kxIld ts ti => s.ildChecks b ts ti
  | .kxSpmm f => s.spmmChecks b f false
  | .kxBspmm f => s.spmmChecks b f true
  | .kxSddmm f => s.sddmmChecks b f
  | .kxSpadd _ blk tv ti tc rnd sat => s.spaddChecks b blk tv ti tc rnd sat
  | _ => match kxSortWord? i with
    | some w => s.sortChecks b w
    | none => []

/-- The tile whose key tensor an SRK word reads at issue (R90, R330). -/
def kxKeyTile : Instr → Option Byte
  | .kxSpmm f => if f.rnd = 5 then some f.out else none
  | .kxBspmm f => if f.rnd = 5 then some f.out else none
  | .kxSddmm f => if f.rnd = 5 then some f.out else none
  | .kxSpadd _ _ _ _ tc rnd _ => if rnd = 5 then some tc else none
  | _ => none

/-- The index tile of a sparse word, its limits, and whether it is checked for rp[0] = 0. -/
def kxIndex : Instr → Option (Byte × Bool × Bool)
  | .kxIld ts _ => some (ts, false, false)
  | .kxSpmm f => some (f.ti, false, true)
  | .kxBspmm f => some (f.ti, true, true)
  | .kxSddmm f => some (f.ti, false, true)
  | .kxSpadd _ blk _ ti _ _ _ => some (ti, blk == 1, true)
  | _ => none

/-- The header that a sparse word latches at issue. -/
def State.kxHead (s : State) (b : BayNo) (i : Instr) : IdxHead :=
  match kxIndex i with
  | some (h, blk, zero) => (s.idxHead b ((s.bay b).tile h) (idxLimits blk).1 (idxLimits blk).2 zero).getD {}
  | none => {}

/-- Judges and issues a class-engine word (R330, R331, R421). -/
def State.issueKx (s : State) (e : Entry) (i : Instr) : State :=
  let b := s.cur
  let y := s.bay b
  if !kxImplemented (bayKind b) i then s.judged 4 e (wIllegal, .nothing)
  else match y.missing 4 (kxTiles i) with
  | some h => s.judged 4 e (wUnallocated, .tile h 0)
  | none =>
    if !y.kxReady i || y.kx.job.isSome then s
    else match firstFail (s.kxChecks b i) with
    | some f => s.judged 4 e f
    | none =>
      let k := match kxKeyTile i with
        | some h => s.keyDesc b h
        | none => (none, s)
      let n := ((kxSortWord? i).map fun w => s.sortCount b w).getD 0
      let j : KxJob := { ent := e, instr := i, n := n, index := y.cls.issued, key := k.1, head := s.kxHead b i }
      (k.2.issueHead 4).modBay b fun y =>
        let y1 := match i with
          | .kxIld ts ti =>
            let t := y.tile ts
            y.setTile ti { y.tile ti with state := 1, td := t.td, origin := t.origin, keyv := 1, status := 0 }
          | _ => y
        { y1 with kx := { y1.kx with job := some j } }

/-- A class-engine word at the head of cls. -/
def State.classWord (s : State) (i : Instr) : Out := onHead s 4 fun e s => s.issueKx e i

/-! ### Sparse rows (R336 to R339) -/

/-- The keyed bits of an element of a tile for an executing word. -/
def KxJob.keyed (j : KxJob) (t : Tile) (row col : Nat) : Nat := keyedTile t j.key j.ent.seed j.ent.step row col

/-- Writes a result into element (row, col) of a tile. -/
def State.putElem (s : State) (b : BayNo) (h : Byte) (row col : Nat) (r : Res) : State :=
  (s.setTileElem b ((s.bay b).tile h) row col r.bits).raiseTile b h r.flags r.satc

/-- The header that kx.ild writes before it checks row 0 (R336). -/
def State.ildHead (s : State) (b : BayNo) (j : KxJob) : State :=
  match j.instr with
  | .kxIld _ ti =>
    let dst := (s.bay b).tile ti
    let put (s : State) (l : Nat) (v : Int) : State := s.setTileLin b dst l (wrapN 32 v)
    if j.upc = 0 then put (put (put s 0 j.head.m) 1 j.head.nc) 2 0 else s
  | _ => s

/-- Row i of kx.ild. -/
def State.ildRow (s : State) (b : BayNo) (ts ti : Byte) (h : IdxHead) (i : Nat) : State :=
  let src := (s.bay b).tile ts
  let dst := (s.bay b).tile ti
  let put (s : State) (l : Nat) (v : Int) : State := s.setTileLin b dst l (wrapN 32 v)
  (s.rowEntries b src h i).foldl (fun t k => put t (h.m + 3 + k) (s.colAt b src h.m k))
    (put s (i + 3) (s.rowPtr b src h (i + 1)))

/-- Row i of kx.spmm, or block row i of kx.bspmm with u = 16. -/
def State.spmmRow (s : State) (b : BayNo) (j : KxJob) (f : KxMul) (u : Nat) (h : IdxHead) (i : Nat) : State :=
  let y := s.bay b
  let tc := y.tile f.out
  let ti := y.tile f.ti
  let tv := y.tile f.tx
  let tb := y.tile f.tb
  let ints := fmtIsInt tv.fmt && fmtIsInt tb.fmt
  let ks := s.rowEntries b ti h i
  if ks.isEmpty ∧ f.flag = 1 then s
  else
    (List.range u).foldl (fun t r => (List.range tc.cols).foldl (fun t c =>
      let row := u * i + r
      let start : Sum := if f.flag = 1 then ({} : Sum).add (decodeVal tc.fmt (s.tileElem b tc row c)) else {}
      let sum := ks.foldl (fun a k => (List.range u).foldl (fun a q =>
        a.addProd (decodeVal tv.fmt (s.tileLin b tv (u * u * k + u * r + q)))
          (decodeVal tb.fmt (s.tileElem b tb (u * (s.colAt b ti h.m k).toNat + q) c))) a) start
      t.putElem b f.out row c (kxRound ints tc.fmt f.rnd.toNat f.sat.toNat (j.keyed tc row c) sum)) t) s

/-- Row i of kx.sddmm. -/
def State.sddmmRow (s : State) (b : BayNo) (j : KxJob) (f : KxMul) (h : IdxHead) (i : Nat) : State :=
  let y := s.bay b
  let tc := y.tile f.out
  let ti := y.tile f.ti
  let ta := y.tile f.tx
  let tb := y.tile f.tb
  let ints := fmtIsInt ta.fmt && fmtIsInt tb.fmt
  (s.rowEntries b ti h i).foldl (fun t k =>
    let sum := (List.range ta.cols).foldl (fun a d =>
      a.addProd (decodeVal ta.fmt (s.tileElem b ta i d))
        (decodeVal tb.fmt (s.tileElem b tb d (s.colAt b ti h.m k).toNat))) ({} : Sum)
    let x := if f.flag = 1 then groupAddend sum (decodeVal tc.fmt (s.tileLin b tc k)) oneVal else sum
    t.putElem b f.out (k / tc.cols) (k % tc.cols)
      (kxRound ints tc.fmt f.rnd.toNat f.sat.toNat (j.keyed tc (k / tc.cols) (k % tc.cols)) x)) s

/-- Row i of kx.spadd. -/
def State.spaddRow (s : State) (b : BayNo) (j : KxJob) (neg : BitVec 1) (u : Nat) (tv ti tc : Byte) (rnd : BitVec 3)
    (sat : BitVec 1) (h : IdxHead) (i : Nat) : State :=
  let y := s.bay b
  let out := y.tile tc
  let idx := y.tile ti
  let val := y.tile tv
  (s.rowEntries b idx h i).foldl (fun t k => (List.range u).foldl (fun t r => (List.range u).foldl (fun t c =>
    let v := decodeVal val.fmt (s.tileLin b val (u * u * k + u * r + c))
    let row := u * i + r
    let col := u * (s.colAt b idx h.m k).toNat + c
    let sum := (({} : Sum).add (decodeVal out.fmt (s.tileElem b out row col))).add (if neg = 1 then v.negated else v)
    t.putElem b tc row col
      (kxRound (fmtIsInt val.fmt) out.fmt rnd.toNat sat.toNat (j.keyed out row col) sum)) t) t) s

/-- Row i of a sparse word that its check has passed. -/
def State.sparseRow (s : State) (b : BayNo) (j : KxJob) : State :=
  match j.instr with
  | .kxIld ts ti => s.ildRow b ts ti j.head j.upc
  | .kxSpmm f => s.spmmRow b j f 1 j.head j.upc
  | .kxBspmm f => s.spmmRow b j f 16 j.head j.upc
  | .kxSddmm f => s.sddmmRow b j f j.head j.upc
  | .kxSpadd neg blk tv ti tc rnd sat => s.spaddRow b j neg (if blk = 1 then 16 else 1) tv ti tc rnd sat j.head j.upc
  | _ => s

/-! ### Sort words (R341 to R344) -/

/-- A pair with its position in the input. -/
structure KxPair where
  pos : Nat
  key : Nat
  val : Nat
deriving DecidableEq, Repr

/-- The rank of a key in the order of its type (R341). -/
def kxRank (kt key : Nat) : Nat :=
  match kt with
  | 0 => (key + 2 ^ 31) % 2 ^ 32
  | 1 => key
  | 2 => fkey key
  | _ => pkkey key

/-- Whether pair a goes strictly before pair b. -/
def kxBefore (w : KxSortWord) (a b : KxPair) : Bool :=
  if w.desc then decide (kxRank w.kt b.key < kxRank w.kt a.key) else decide (kxRank w.kt a.key < kxRank w.kt b.key)

/-- The merge of R344: from the left unless the right's head goes before the left's. -/
def kxMergeLists (lt : KxPair → KxPair → Bool) : Nat → List KxPair → List KxPair → List KxPair
  | 0, l, r => l ++ r
  | _ + 1, [], r => r
  | _ + 1, l, [] => l
  | n + 1, a :: l, b :: r =>
    if lt b a then b :: kxMergeLists lt n (a :: l) r else a :: kxMergeLists lt n l (b :: r)

/-- Merges neighbouring lists. -/
def kxMergePass (lt : KxPair → KxPair → Bool) : List (List KxPair) → List (List KxPair)
  | a :: b :: t => kxMergeLists lt (a.length + b.length) a b :: kxMergePass lt t
  | l => l

/-- A stable sort by merging. -/
def kxSortPasses (lt : KxPair → KxPair → Bool) : Nat → List (List KxPair) → List KxPair
  | 0, l => l.flatten
  | n + 1, l => match l with
    | [] => []
    | [a] => a
    | _ => kxSortPasses lt n (kxMergePass lt l)

/-- Pairs sorted stably. -/
def kxSorted (w : KxSortWord) (l : List KxPair) : List KxPair := kxSortPasses (kxBefore w) 64 (l.map fun p => [p])

/-- Cuts pairs into segments. -/
def kxSegments : List Nat → List KxPair → List (List KxPair)
  | [], _ => []
  | n :: ls, l => l.take n :: kxSegments ls (l.drop n)

/-- The first pair of each run of equal keys. -/
def kxRuns : Option Nat → List KxPair → List KxPair
  | _, [] => []
  | last, p :: t => if last = some p.key then kxRuns last t else p :: kxRuns (some p.key) t

/-- The pairs that a sort word writes from position 0 on, and its count. -/
def kxResult (i : Instr) (w : KxSortWord) (lens : List Nat) (l : List KxPair) : List KxPair × Nat :=
  match i with
  | .kxSort _ _ _ _ => (kxSorted w l, l.length)
  | .kxMerge _ _ _ => ((kxMergePass (kxBefore w) (kxSegments lens l)).flatten, l.length)
  | .kxSsort _ _ _ => (((kxSegments lens l).map (kxSorted w)).flatten, l.length)
  | .kxCmpct _ _ _ _ _ _ _ =>
    let kept := l.filter fun p => p.key != (if w.kt = 3 then 2 ^ 64 - 1 else 2 ^ 32 - 1)
    (kept, kept.length)
  | .kxUniq _ _ _ _ => (kxRuns none l, (kxRuns none l).length)
  | .kxTopk _ _ k1 =>
    let k := min (k1.toNat + 1) l.length
    let top := (kxSorted w l).take k
    (top ++ l.filter (fun p => !top.any fun q => q.pos == p.pos), k)
  | _ => (l, l.length)

/-- The pairs of a sort word. -/
def State.sortPairs (s : State) (b : BayNo) (w : KxSortWord) (n : Nat) : List KxPair :=
  let tk := (s.bay b).tile w.tk
  let tv := (s.bay b).tile w.tv
  (List.range n).map fun e =>
    { pos := e,
      key := if w.kt = 3 then s.tileLin b tk (2 * e) + 2 ^ 32 * s.tileLin b tk (2 * e + 1) else s.tileLin b tk e,
      val := if w.ven then s.tileLin b tv e else 0 }

/-- Writes one pair at a position. -/
def State.putPair (s : State) (b : BayNo) (w : KxSortWord) (e : Nat) (p : KxPair) : State :=
  let tk := (s.bay b).tile w.tk
  let tv := (s.bay b).tile w.tv
  let s1 := if w.kt = 3 then (s.setTileLin b tk (2 * e) (p.key % 2 ^ 32)).setTileLin b tk (2 * e + 1) (p.key / 2 ^ 32)
    else s.setTileLin b tk e p.key
  if w.ven then s1.setTileLin b tv e p.val else s1

/-- Writes pairs from a position on. -/
def State.putPairs (s : State) (b : BayNo) (w : KxSortWord) : Nat → List KxPair → State
  | _, [] => s
  | e, p :: t => (s.putPair b w e p).putPairs b w (e + 1) t

/-- A whole sort word (R341 to R344). -/
def State.sortRun (s : State) (b : BayNo) (j : KxJob) (w : KxSortWord) : State :=
  let r := kxResult j.instr w (s.sortLens b w) (s.sortPairs b w j.n)
  let s1 := s.putPairs b w 0 r.1
  let s2 := match w.tcn with
    | some h => if j.n = 0 then s1 else s1.setTileLin b ((s.bay b).tile h) 0 r.2
    | none => s1
  s2.modBay b fun y => { y with kx := { y.kx with cnt := BitVec.ofNat 32 r.2 } }

/-! ### Rows and completion (R332, R335) -/

/-- The executing word completes: kx.ild leaves its index tile ready (R150). -/
def State.kxEnd (s : State) (b : BayNo) (j : KxJob) : State :=
  s.modBay b fun y =>
    let y1 := match j.instr with
      | .kxIld _ ti => y.setTile ti { y.tile ti with state := 2 }
      | _ => y
    { y1 with kx := { y1.kx with job := none } }

/-- Whether a held word fault is the executing class-engine word's own: that alone stops it (R332). -/
def Bay.kxHeld (b : Bay) (j : KxJob) : Bool := b.wf.valid && b.wf.qid == 4 && b.wf.index == j.index

/-- One row of the executing class-engine word: an "index" fault, or the row and, after the last, the word's end. -/
def State.stepKx (s : State) (b : BayNo) : State :=
  match (s.bay b).kx.job with
  | none => s
  | some j =>
    if (s.bay b).kxHeld j then s
    else match kxIndex j.instr with
    | none =>
      match kxSortWord? j.instr with
      | some w => (s.sortRun b j w).kxEnd b j
      | none => s.kxEnd b j
    | some (h, _, _) =>
      let s0 := s.ildHead b j
      match s0.rowBreak b ((s0.bay b).tile h) j.head j.upc with
      | some p => s0.modBay b fun y => y.wordFault 4 j.ent j.index wIndex j.upc (.tile h p)
      | none =>
        let s1 := s0.sparseRow b j
        let j1 := { j with upc := j.upc + 1 }
        if j.head.m ≤ j1.upc then s1.kxEnd b j1
        else s1.modBay b fun y => { y with kx := { y.kx with job := some j1 } }

/-- Rows of the executing word until it ends or stops. -/
def State.runKx (s : State) (b : BayNo) : Nat → State
  | 0 => s
  | n + 1 =>
    if (s.bay b).kx.job.all (s.bay b).kxHeld then s else (s.stepKx b).runKx b n

/-- CLASS_WORD_COMPLETE (R332, R340, R346): the rows left are done, and the word ends. -/
def execClassWordComplete (bay : BayNo) (s : State) : Out := onBay s bay fun s => s.runKx bay 4097

/-- A skipped class-engine word (R332): rows below UPC stay written, and a skipped kx.ild leaves its tile empty. -/
def Bay.kxSkip (b : Bay) : Bay :=
  match b.kx.job with
  | none => b
  | some j =>
    let b1 := { b with kx := { b.kx with job := none } }
    match j.instr with
    | .kxIld _ ti => b1.setTile ti { b1.tile ti with state := 0 }
    | _ => b1

/-! ### Words -/

/-- KX_ILD (R336). -/
def execKxIld (ts ti : BitVec 8) (s : State) : Out := s.classWord (.kxIld ts ti)
/-- KX_SPMM (R338). -/
def execKxSpmm (f : KxMul) (s : State) : Out := s.classWord (.kxSpmm f)
/-- KX_BSPMM (R338). -/
def execKxBspmm (f : KxMul) (s : State) : Out := s.classWord (.kxBspmm f)
/-- KX_SDDMM (R338). -/
def execKxSddmm (f : KxMul) (s : State) : Out := s.classWord (.kxSddmm f)
/-- KX_SPADD (R339). -/
def execKxSpadd (neg blk : BitVec 1) (tv ti tc : BitVec 8) (rnd : BitVec 3) (sat : BitVec 1) (s : State) : Out :=
  s.classWord (.kxSpadd neg blk tv ti tc rnd sat)
/-- KX_SORT (R344). -/
def execKxSort (f : KxKey) (n : BitVec 16) (tcn : BitVec 8) (cen : BitVec 1) (s : State) : Out :=
  s.classWord (.kxSort f n tcn cen)
/-- KX_MERGE (R344). -/
def execKxMerge (f : KxKey) (tl : BitVec 8) (nseg : BitVec 16) (s : State) : Out := s.classWord (.kxMerge f tl nseg)
/-- KX_SSORT (R344). -/
def execKxSsort (f : KxKey) (tl : BitVec 8) (nseg : BitVec 16) (s : State) : Out := s.classWord (.kxSsort f tl nseg)
/-- KX_CMPCT (R344). -/
def execKxCmpct (kt : BitVec 2) (ven : BitVec 1) (tv tk : BitVec 8) (n : BitVec 16) (tcn : BitVec 8) (cen : BitVec 1)
    (s : State) : Out :=
  s.classWord (.kxCmpct kt ven tv tk n tcn cen)
/-- KX_UNIQ (R344). -/
def execKxUniq (kt : BitVec 2) (ven : BitVec 1) (tv tk : BitVec 8) (s : State) : Out := s.classWord (.kxUniq kt ven tv tk)
/-- KX_TOPK (R344). -/
def execKxTopk (f : KxKey) (n : BitVec 16) (k1 : BitVec 10) (s : State) : Out := s.classWord (.kxTopk f n k1)

end Sys2Proof.Machine
end

