-- ==== Sys2Proof/Machine/Container.lean ====
section
/-! DEFINITION. The container that a save writes and a restore reads: its header, directory and sections (R145, R153, R269,
R283, R328, R332, R386 to R389). The spec gives each section's items and its length; where an item stands in its section
is log 25. -/
namespace Sys2Proof.Machine

/-! ### Items of a section -/

/-- An item of a section: its bytes, and how a bay's state gives it and takes it. -/
structure Cell where
  bytes : Nat
  get : Bay → Nat
  set : Nat → Bay → Bay

/-- The bytes of a section. -/
def Cell.save (l : List Cell) (b : Bay) : List Byte := l.flatMap fun c => leBytes (c.get b) c.bytes

/-- A bay's state with a section placed back; an item that the section is too short to hold takes its dispatch value, as
d has it (R388). -/
def Cell.load (d : Bay) : List Cell → List Byte → Bay → Bay
  | [], _, b => b
  | c :: t, bs, b =>
    let v := if (bs.take c.bytes).length = c.bytes then leNat (bs.take c.bytes) else c.get d
    Cell.load d t (bs.drop c.bytes) (if c.get b = v then b else c.set v b)

/-- n numbers of w bits each as one, the first lowest. -/
def packN (w n : Nat) (f : Nat → Nat) : Nat := (List.range n).foldr (fun k a => f k % 2 ^ w + 2 ^ w * a) 0
/-- Number k of w bits. -/
def unpack (w v k : Nat) : Nat := v / 2 ^ (w * k) % 2 ^ w
/-- Bits of a number. -/
def natBits (v lo w : Nat) : Nat := v / 2 ^ lo % 2 ^ w
/-- Sets elements of a table from base on, where they differ. -/
def setMany {n : Nat} (m : Tab (BitVec n)) (base w v k : Nat) : Tab (BitVec n) :=
  (List.range k).foldl
    (fun m j => if Tab.get 0 m (base + j) = BitVec.ofNat n (unpack w v j) then m
      else m.put (base + j) (BitVec.ofNat n (unpack w v j))) m
/-- Applies f to the element k of a list. -/
def modAt {α : Type} (f : α → α) : List α → Nat → List α
  | [], _ => []
  | a :: t, 0 => f a :: t
  | a :: t, k + 1 => a :: modAt f t k

/-- An item held in a CSR of the generator's own fields. -/
def genCell (n : Nat) (get : Gen → Nat) (set : Nat → Gen → Gen) : Cell :=
  { bytes := n, get := fun b => get b.gen, set := fun v b => b.modGen (set v) }

/-! ### GEN (R145, R378, R384) -/

/-- The word-fault CSRs' fields from the CSRs' values (R378). -/
def WordFault.put (w : WordFault) (n v : Nat) : WordFault :=
  match n with
  | 0 => { w with valid := v.testBit 63, act := BitVec.ofNat 2 (v / 2 ^ 61), cause := BitVec.ofNat 8 v }
  | 1 => { w with npfx := BitVec.ofNat 2 (v / 8), qid := BitVec.ofNat 3 v }
  | 2 => { w with index := BitVec.ofNat 32 v }
  | 3 => { w with word := BitVec.ofNat 32 v }
  | 4 => { w with eseq := BitVec.ofNat 32 (v / 2 ^ 32), off := BitVec.ofNat 32 v }
  | 5 => { w with upc := BitVec.ofNat 32 v }
  | _ => { w with kind := BitVec.ofNat 1 (v / 2 ^ 63), id := BitVec.ofNat 12 (v / 2 ^ 48), pos := BitVec.ofNat 48 v }

/-- A list of n entries, as far as it goes the given ones. -/
def resize (l : List Entry) (n : Nat) : List Entry := (List.range n).map fun k => l.getD k {}

/-- Mode of the task, and how many entries each queue holds; no task is in a mode 2, which reads as U. -/
def modeCell : Cell :=
  { bytes := 8
    get := fun b => b.gen.mode.toNat + 2 ^ 8 * packN 9 5 fun q => (b.queue q).ent.length
    set := fun v b => [0, 1, 2, 3, 4].foldl
      (fun b q => b.modQueue q fun x => { x with ent := resize x.ent (unpack 9 (v / 2 ^ 8) q) })
      (b.modGen fun g => { g with mode := if v % 4 = 2 then 0 else BitVec.ofNat 2 v }) }

/-- zwatch, and how many words wait for each queue. -/
def watchCell : Cell :=
  { bytes := 8
    get := fun b => b.gen.hlimit.toNat + 2 ^ 32 * packN 4 5 fun q => (b.queue q).wait.length
    set := fun v b => [0, 1, 2, 3, 4].foldl
      (fun b q => b.modQueue q fun x => { x with wait := resize x.wait (unpack 4 (v / 2 ^ 32) q) })
      (b.modGen fun g => { g with hlimit := BitVec.ofNat 32 v }) }

/-- The pending prefixes in acceptance order; each names its target, and none is 0. -/
def pendCell : Cell :=
  { bytes := 40
    get := fun b => leNat (b.pend.flatMap fun p => leBytes p.2.toNat 4)
    set := fun v b => { b with pend := (((List.range 10).map fun k => BitVec.ofNat 32 (unpack 32 v k)).filter
      fun w : W32 => w != 0).map fun w => ((field w 26 3).toNat, w) } }

/-- The items of the GEN section. -/
def genCells : List Cell :=
  ((List.range 31).map fun k =>
    genCell 8 (fun g => (g.rd (BitVec.ofNat 5 (k + 1))).toNat) fun v g => g.wr (BitVec.ofNat 5 (k + 1)) (BitVec.ofNat 64 v)) ++
  [genCell 8 (fun g => g.pc.toNat) fun v g => { g with pc := BitVec.ofNat 64 v}, modeCell,
   genCell 8 (fun g => g.zclass.toNat) fun v g => { g with zclass := BitVec.ofNat 4 v },
   genCell 8 (fun g => g.zrelmask.toNat) fun v g => { g with zrelmask := BitVec.ofNat 15 v },
   genCell 8 (fun g => g.srseed.toNat) fun v g => { g with srseed := BitVec.ofNat 64 v },
   genCell 8 (fun g => g.srstep.toNat) fun v g => { g with srstep := BitVec.ofNat 64 v },
   watchCell,
   genCell 8 (fun g => g.bbcSlot.toNat * 2 ^ 58 + g.bbcEn.toNat * 2 ^ 48 + g.bbcOff8.toNat * 8) fun v g =>
     { g with bbcSlot := BitVec.ofNat 6 (v / 2 ^ 58), bbcEn := BitVec.ofNat 1 (v / 2 ^ 48),
              bbcOff8 := BitVec.ofNat 45 (v / 8) }] ++
  ((List.range 7).map fun k =>
    { bytes := 8, get := fun b => (b.wf.read (0x5C0 + k)).toNat, set := fun v b => { b with wf := b.wf.put k v } }) ++
  [genCell 8 (fun g => (g.csrRd 0x300 &&& sstatusMask).toNat) fun v g => g.csrSet 0x300 sstatusMask (BitVec.ofNat 64 v)] ++
  ([0x304, 0x344, 0x105, 0x140, 0x141, 0x142, 0x143].map fun n =>
    genCell 8 (fun g => (g.csrRd n).toNat) fun v g => g.csrWr n (BitVec.ofNat 64 v)) ++
  [{ bytes := 4, get := fun b => b.eseq.toNat, set := fun v b => { b with eseq := BitVec.ofNat 32 v } }, pendCell] ++
  ([0, 1, 2, 3, 4].map fun q =>
    { bytes := 4, get := fun b => (b.queue q).issued.toNat,
      set := fun v b => b.modQueue q fun x => { x with issued := BitVec.ofNat 32 v } })

/-! ### QUEUES (R118, R145, R234) -/

/-- The word that an entry is kept as: a free marker and a notify take words of the reserved engine 7. -/
def Entry.word (e : Entry) : W32 :=
  match e.kind with
  | .word => e.w
  | .marker h => 0xE0#8 ++ 0#16 ++ h
  | .notify => 0xE0000100

/-- An entry's 36 bytes (R118): word, prefixes, provenance, srseed, srstep. A sync word has no prefix; the held flag of a
sy.round stands in their place (R234). -/
def Entry.saved (e : Entry) : Nat :=
  let p0 := if e.held then 1 else (e.pfx.getD 0 0).toNat
  e.word.toNat + 2 ^ 32 * p0 + 2 ^ 64 * (e.pfx.getD 1 0).toNat + 2 ^ 96 * e.off.toNat + 2 ^ 128 * e.eseq.toNat +
    2 ^ 160 * e.seed.toNat + 2 ^ 224 * e.step.toNat

/-- The entry that 36 bytes hold. -/
def Entry.ofSaved (e : Entry) (v : Nat) : Entry :=
  let w : W32 := BitVec.ofNat 32 v
  let k : EntryKind := if w.extractLsb' 8 24 = 0xE00000 then .marker (w.extractLsb' 0 8)
    else if w = 0xE0000100 then .notify else .word
  let ps := ([natBits v 32 32, natBits v 64 32].filter fun p => 1 < p).map (BitVec.ofNat 32)
  { e with kind := k, w := if k = .word then w else 0, pfx := ps, held := natBits v 32 32 == 1,
           off := BitVec.ofNat 32 (v / 2 ^ 96), eseq := BitVec.ofNat 32 (v / 2 ^ 128),
           seed := BitVec.ofNat 64 (v / 2 ^ 160), step := BitVec.ofNat 64 (v / 2 ^ 224) }

/-- The items of the QUEUES section: of each queue the waiting words, then the entries, head first. -/
def queueCells (b : Bay) : List Cell :=
  [0, 1, 2, 3, 4].flatMap fun q =>
    ((List.range (b.queue q).wait.length).map fun k =>
      { bytes := 36, get := fun b => ((b.queue q).wait.getD k {}).saved,
        set := fun v b => b.modQueue q fun x => { x with wait := modAt (fun e => e.ofSaved v) x.wait k } }) ++
    (List.range (b.queue q).ent.length).map fun k =>
      { bytes := 36, get := fun b => ((b.queue q).ent.getD k {}).saved,
        set := fun v b => b.modQueue q fun x => { x with ent := modAt (fun e => e.ofSaved v) x.ent k } }

/-! ### MTX (R269) -/

/-- mx.cfg state as a number. -/
def MxCfg.saved (c : MxCfg) : Nat :=
  c.m1.toNat + 2 ^ 8 * c.n1.toNat + 2 ^ 16 * c.afmt.toNat + 2 ^ 17 * c.sa.toNat + 2 ^ 18 * c.sb.toNat
/-- mx.cfg state from a number. -/
def MxCfg.ofSaved (v : Nat) : MxCfg :=
  { m1 := BitVec.ofNat 7 v, n1 := BitVec.ofNat 7 (v / 2 ^ 8), afmt := BitVec.ofNat 1 (v / 2 ^ 16),
    sa := BitVec.ofNat 1 (v / 2 ^ 17), sb := BitVec.ofNat 1 (v / 2 ^ 18) }

/-- A descriptor's 192 bytes as a number. -/
def descSaved (d : Desc) : Nat := packN 64 24 fun k => (d.getD k 0).toNat
/-- A latched descriptor from its bytes; a word that uses none keeps none. -/
def latched (d : Desc) (v : Nat) : Desc :=
  if descSaved d = v then d else (List.range 24).map fun k => BitVec.ofNat 64 (unpack 64 v k)

/-- A stopped matrix word: UPC, its mx.cfg state and its descriptors. -/
def MxJob.saved (j : MxJob) : Nat :=
  j.upc % 2 ^ 32 + 2 ^ 32 * j.cfg.saved + 2 ^ 96 * descSaved j.descA + 2 ^ 1632 * descSaved j.descB +
    2 ^ 3168 * descSaved (j.key.getD [])
/-- A stopped matrix word with what its 608 bytes hold. -/
def MxJob.ofSaved (j : MxJob) (v : Nat) : MxJob :=
  { j with upc := natBits v 0 32, cfg := MxCfg.ofSaved (natBits v 32 64), descA := latched j.descA (natBits v 96 1536),
           descB := latched j.descB (natBits v 1632 1536), key := j.key.map fun d => latched d (natBits v 3168 1536) }

/-- Item of an accumulator set. -/
def accCell (k n : Nat) (get : AccSet → Nat) (set : Nat → AccSet → AccSet) : Cell :=
  { bytes := n
    get := fun b => get (if k = 0 then b.mx.acc0 else b.mx.acc1)
    set := fun v b => { b with mx :=
      if k = 0 then { b.mx with acc0 := set v b.mx.acc0 } else { b.mx with acc1 := set v b.mx.acc1 } } }

/-- Item of the matrix engine. -/
def mxCell (n : Nat) (get : Mx → Nat) (set : Nat → Mx → Mx) : Cell :=
  { bytes := n, get := fun b => get b.mx, set := fun v b => { b with mx := set v b.mx } }

/-- The items of the MTX section that always stand, in R389's order: mx.cfg state, sets, weight-buffer state, stopped words. -/
def mxCells : List Cell :=
  mxCell 8 (fun m => m.cfg.saved) (fun v m => { m with cfg := MxCfg.ofSaved v }) ::
  ([0, 1].flatMap fun k =>
    accCell k 16 (fun a => a.gc.toNat + 2 ^ 32 * a.pf.toNat + 2 ^ 40 * a.ms1.toNat + 2 ^ 48 * a.ns1.toNat +
        2 ^ 56 * a.afmt.toNat)
      (fun v a => { a with gc := BitVec.ofNat 32 v, pf := BitVec.ofNat 8 (v / 2 ^ 32), ms1 := BitVec.ofNat 7 (v / 2 ^ 40),
                           ns1 := BitVec.ofNat 7 (v / 2 ^ 48), afmt := BitVec.ofNat 1 (v / 2 ^ 56) }) ::
    (List.range 128).map fun i =>
      accCell k 512 (fun a => packN 32 128 fun j => (Tab.get 0 a.val (128 * i + j)).toNat)
        fun v a => { a with val := setMany a.val (128 * i) 32 v 128 }) ++
  [mxCell 16 (fun m => m.w.fmt.toNat + 2 ^ 4 * m.w.so.toNat + 2 ^ 5 * m.w.sb.toNat + 2 ^ 6 * m.w.g1.toNat +
       2 ^ 32 * m.w.hi) fun v m =>
     { m with w := { m.w with fmt := BitVec.ofNat 4 v, so := BitVec.ofNat 1 (v / 2 ^ 4), sb := BitVec.ofNat 1 (v / 2 ^ 5),
                              g1 := BitVec.ofNat 1 (v / 2 ^ 6), hi := v / 2 ^ 32 } },
   mxCell 608 (fun m => ((m.arrays.head?).map MxJob.saved).getD 0) fun v m =>
     { m with arrays := modAt (fun j => j.ofSaved v) m.arrays 0 },
   mxCell 608 (fun m => (m.port.map MxJob.saved).getD 0) fun v m => { m with port := m.port.map fun j => j.ofSaved v }]

/-- The bits of a block scale. -/
def scaleAt (t : Tab WScale) (k : Nat) : W32 := (Tab.get {} t k : WScale).bits
/-- Sets the bits of a block scale, where they differ. The flags of R93 that were raised as the scale was computed have no
place in the container, and do not return with it (DESIGN CHOICE, log 25). -/
def setScale (t : Tab WScale) (k : Nat) (v : W32) : Tab WScale :=
  if scaleAt t k = v then t else Tab.mod {} t k fun x => { x with bits := v }

/-- Sets the 128 block scales of one block. -/
def setScales (t : Tab WScale) (base v : Nat) : Tab WScale :=
  (List.range 128).foldl (fun t j => setScale t (base + j) (BitVec.ofNat 32 (unpack 32 v j))) t

/-- The weight rows and scale blocks that the task holds. -/
def weightCells (w : Weights) : List Cell :=
  ((List.range w.hi).map fun i =>
    mxCell (16 * fmtBits w.fmt) (fun m => packN (fmtBits w.fmt) 128 fun j => (Tab.get 0 m.w.data (128 * i + j)).toNat)
      fun v m => { m with w := { m.w with data := setMany m.w.data (128 * i) (fmtBits w.fmt) v 128 } }) ++
  (List.range (if w.g1 = 1 ∧ w.hi ≠ 0 then (w.hi - 1) / 64 + 1 else 0)).map fun i =>
    mxCell 512 (fun m => packN 32 128 fun j => (scaleAt m.w.scale (128 * i + j)).toNat) fun v m =>
      { m with w := { m.w with scale := setScales m.w.scale (128 * i) v } }

/-! ### VEC (R283) -/

/-- A region slot's 16 bytes. -/
def Slot.saved (x : Slot) : Nat :=
  x.kind.toNat + 2 ^ 8 * x.tile.toNat + 2 ^ 16 * x.off.toNat + 2 ^ 40 * x.stride.toNat + 2 ^ 56 * (x.count % 2 ^ 16) +
    2 ^ 72 * x.tl.toNat + 2 ^ 80 * x.nseg.toNat
/-- The region slot that 16 bytes hold. -/
def Slot.ofSaved (v : Nat) : Slot :=
  { kind := BitVec.ofNat 2 v, tile := BitVec.ofNat 8 (v / 2 ^ 8), off := BitVec.ofNat 24 (v / 2 ^ 16),
    stride := BitVec.ofNat 16 (v / 2 ^ 40), count := natBits v 56 16, tl := BitVec.ofNat 8 (v / 2 ^ 72),
    nseg := BitVec.ofNat 16 (v / 2 ^ 80) }

/-- A stopped vector word's 120 bytes: opcode, UPC, its latched slots. Its 64 bytes of partial state are 0, as no
ordered word stops part-done (log 31). -/
def VxJob.saved (j : VxJob) : Nat :=
  j.ent.w.toNat + 2 ^ 32 * (j.upc % 2 ^ 32) + 2 ^ 64 * packN 128 3 (fun k =>
    ((j.slots[k]?).map fun e => e.2.saved).getD 0)
/-- A stopped vector word with what its 120 bytes hold. -/
def VxJob.ofSaved (j : VxJob) (v : Nat) : VxJob :=
  { j with ent := { j.ent with w := BitVec.ofNat 32 v }, upc := natBits v 32 32,
           slots := (List.range j.slots.length).zip j.slots |>.map fun e =>
             (e.2.1, Slot.ofSaved (natBits v (64 + 128 * e.1) 128)) }

/-- Item of the vector engine. -/
def vxCell (n : Nat) (get : Vx → Nat) (set : Nat → Vx → Vx) : Cell :=
  { bytes := n, get := fun b => get b.vx, set := fun v b => { b with vx := set v b.vx } }

/-- The items of the VEC section. -/
def vxCells : List Cell :=
  ((List.range 16).map fun k =>
    vxCell 16 (fun x => (Tab.get {} x.slots k : Slot).saved) fun v x => { x with slots := x.slots.put k (Slot.ofSaved v) }) ++
  [vxCell 1 (fun x => x.chk.toNat) fun v x => { x with chk := BitVec.ofNat 1 v },
   vxCell 120 (fun x => (x.stopped.map VxJob.saved).getD 0) fun v x =>
     { x with stopped := x.stopped.map fun j => j.ofSaved v }]

/-! ### CPY (R328) -/

/-- Eight signed 24-bit components. -/
def orgSaved (l : List (BitVec 24)) : Nat := packN 24 8 fun k => (l.getD k 0).toNat
/-- Eight components from a number. -/
def orgOf (v : Nat) : List (BitVec 24) := (List.range 8).map fun k => BitVec.ofNat 24 (unpack 24 v k)
/-- Eight loop levels: DSEL, STEP, CNT. -/
def levelsSaved (l : List CpLevel) : Nat :=
  packN 32 8 fun k => let x := l.getD k {}
    x.dsel.toNat + 2 ^ 3 * x.step.toNat + 2 ^ 19 * (x.cnt % 2 ^ 13)
/-- Eight levels from a number. -/
def levelsOf (v : Nat) : List CpLevel :=
  (List.range 8).map fun k => let x := unpack 32 v k
    { dsel := BitVec.ofNat 3 x, step := BitVec.ofNat 16 (x / 2 ^ 3), cnt := natBits x 19 13 }

/-- A stopped data copy: word and prefix, UPC, origin, nest, PAD, descriptors. -/
def CpJob.saved (j : CpJob) : Nat :=
  j.ent.w.toNat + 2 ^ 32 * (j.ent.pfx.getD 0 0).toNat + 2 ^ 64 * (j.upc % 2 ^ 32) + 2 ^ 96 * orgSaved j.origin +
    2 ^ 288 * levelsSaved j.levels + 2 ^ 544 * j.nlev.toNat + 2 ^ 552 * j.pad.toNat + 2 ^ 584 * descSaved j.desc +
    2 ^ 2120 * descSaved j.desc2
/-- A stopped data copy with what its 640 bytes hold. -/
def CpJob.ofSaved (j : CpJob) (v : Nat) : CpJob :=
  { j with ent := { j.ent with w := BitVec.ofNat 32 v, pfx := modAt (fun _ => BitVec.ofNat 32 (v / 2 ^ 32)) j.ent.pfx 0 }
           upc := natBits v 64 32, origin := orgOf (natBits v 96 192), levels := levelsOf (natBits v 288 256),
           nlev := BitVec.ofNat 4 (v / 2 ^ 544), pad := BitVec.ofNat 32 (v / 2 ^ 552),
           desc := latched j.desc (natBits v 584 1536), desc2 := latched j.desc2 (natBits v 2120 1536) }

/-- Item of a copy queue. -/
def cpCell (q : BitVec 1) (n : Nat) (get : Cp → Nat) (set : Nat → Cp → Cp) : Cell :=
  { bytes := n, get := fun b => get (b.cp q), set := fun v b => b.setCp q (set v (b.cp q)) }

/-- The items of the CPY section. -/
def cpCells : List Cell :=
  [0#1, 1#1].flatMap fun q =>
    [cpCell q 72 (fun x => orgSaved x.org + 2 ^ 192 * levelsSaved x.levels + 2 ^ 448 * x.nlev.toNat + 2 ^ 456 * x.orgv.toNat +
        2 ^ 464 * x.pad.toNat) fun v x =>
       { x with org := orgOf (natBits v 0 192), levels := levelsOf (natBits v 192 256), nlev := BitVec.ofNat 4 (v / 2 ^ 448),
                orgv := BitVec.ofNat 1 (v / 2 ^ 456), pad := BitVec.ofNat 32 (v / 2 ^ 464) },
     cpCell q 8 (fun x => x.bytes.toNat) fun v x => { x with bytes := BitVec.ofNat 64 v },
     cpCell q 8 (fun x => x.last.toNat) fun v x => { x with last := BitVec.ofNat 64 v }] ++
    (List.range 4).map fun k =>
      cpCell q 640 (fun x => ((x.jobs[k]?).map CpJob.saved).getD 0) fun v x =>
        { x with jobs := modAt (fun j => j.ofSaved v) x.jobs k }

/-! ### CLS and SYNC (R208, R233, R234, R332) -/

/-- A stopped sparse word: word and prefix, UPC, header values. -/
def KxJob.saved (j : KxJob) : Nat :=
  j.ent.w.toNat + 2 ^ 32 * (j.ent.pfx.getD 0 0).toNat + 2 ^ 64 * (j.upc % 2 ^ 32) + 2 ^ 96 * (j.head.m % 2 ^ 32) +
    2 ^ 128 * (j.head.nc % 2 ^ 32) + 2 ^ 160 * (j.head.nnz % 2 ^ 32) + 2 ^ 192 * (BitVec.ofInt 32 j.head.first).toNat
/-- A stopped sparse word with what its 28 bytes hold. -/
def KxJob.ofSaved (j : KxJob) (v : Nat) : KxJob :=
  { j with ent := { j.ent with w := BitVec.ofNat 32 v, pfx := modAt (fun _ => BitVec.ofNat 32 (v / 2 ^ 32)) j.ent.pfx 0 }
           upc := natBits v 64 32
           head := { m := natBits v 96 32, nc := natBits v 128 32, nnz := natBits v 160 32,
                     first := (BitVec.ofNat 32 (v / 2 ^ 192)).toInt } }

/-- The items of the CLS section. -/
def kxCells : List Cell :=
  [{ bytes := 4, get := fun b => b.kx.cnt.toNat, set := fun v b => { b with kx := { b.kx with cnt := BitVec.ofNat 32 v } } },
   { bytes := 28, get := fun b => (b.kx.job.map KxJob.saved).getD 0,
     set := fun v b => { b with kx := { b.kx with job := b.kx.job.map fun j => j.ofSaved v } } }]

/-- A barrier's 8 bytes. -/
def Barrier.saved (x : Barrier) : Nat :=
  x.exp.toNat + 2 ^ 16 * x.arr.toNat + 2 ^ 32 * x.gen.toNat + 2 ^ 48 * x.lastAg.toNat + 2 ^ 56 * x.lastBay.toNat
/-- A barrier with what 8 bytes hold. -/
def Barrier.ofSaved (x : Barrier) (v : Nat) : Barrier :=
  { x with exp := BitVec.ofNat 16 v, arr := BitVec.ofNat 16 (v / 2 ^ 16), gen := BitVec.ofNat 16 (v / 2 ^ 32),
           lastAg := BitVec.ofNat 3 (v / 2 ^ 48), lastBay := BitVec.ofNat 8 (v / 2 ^ 56) }

/-- The items of the SYNC section: barriers, each agent's wait counts, rounds, the slip group. -/
def syncCells : List Cell :=
  ((List.range 64).map fun n =>
    { bytes := 8, get := fun b => (Tab.get {} b.bars n : Barrier).saved,
      set := fun v b => { b with bars := Tab.mod {} b.bars n fun x => x.ofSaved v } }) ++
  ([0, 1, 2, 3, 4, 5].flatMap fun a => (List.range 96).map fun n =>
    { bytes := 2, get := fun b => (b.wcntOf a n).toNat, set := fun v b => b.setWcnt a n (BitVec.ofNat 16 v) }) ++
  ([0, 1, 2, 3, 4].map fun q =>
    { bytes := 8, get := fun b => (b.queue q).rnd % 2 ^ 64, set := fun v b => b.modQueue q fun x => { x with rnd := v } }) ++
  [{ bytes := 2, get := fun b => b.slipMask.toNat + 2 ^ 8 * b.slipDepth.toNat,
     set := fun v b => { b with slipMask := BitVec.ofNat 5 v, slipDepth := BitVec.ofNat 4 (v / 2 ^ 8) } }]

/-! ### Tiles (R153, R387) -/

/-- A tile-table entry in the container (R387). -/
def Tile.saved (t : Tile) : BitVec 384 :=
  if t.alloc = 0 then 0
  else 0#76 ++ BitVec.ofNat 20 t.base ++ 0#16 ++ t.cols1 ++ t.rows1 ++ t.td ++ t.fmt ++ 0#1 ++ t.keyv ++ t.autoe ++
    t.level ++ t.state ++ t.alloc ++ t.status ++ t.org 7 ++ t.org 6 ++ t.org 5 ++ t.org 4 ++ t.org 3 ++ t.org 2 ++
    t.org 1 ++ t.org 0

/-- The entry that a container's bits describe. -/
def Tile.ofSaved (v : BitVec 384) : Tile :=
  { alloc := v.extractLsb' 224 2, state := v.extractLsb' 226 2, level := v.extractLsb' 228 1,
    autoe := v.extractLsb' 229 1, fmt := v.extractLsb' 232 4, rows1 := v.extractLsb' 248 12,
    cols1 := v.extractLsb' 260 12, keyv := v.extractLsb' 230 1, td := v.extractLsb' 236 12,
    origin := (List.range 8).map fun k => v.extractLsb' (24 * k) 24, status := v.extractLsb' 192 32 }

/-- The 64 × lines bytes of a tile. -/
def State.tileBytes (s : State) (bn : BayNo) (t : Tile) : List Byte := (s.tileMem bn t).readN (64 * t.base) (64 * t.lines)

/-! ### The container (R386, R388, R389) -/

/-- The save area's buffer id (R395). -/
def saveArea : BufId := 0xFFFFFA

/-- Sections of a container (R386). -/
def sectionKinds (kind : Nat) : List Nat := [1, 2] ++ (if kind = 3 then [3] else []) ++ [4, 5] ++
  (if kind = 4 ∨ kind = 6 then [6] else []) ++ [7, 8, 9]

/-- The items of a section of a bay's own state. -/
def Bay.sectionCells (b : Bay) (k : Nat) : List Cell :=
  match k with
  | 1 => genCells
  | 2 => queueCells b
  | 3 => mxCells ++ weightCells b.mx.w
  | 4 => vxCells
  | 5 => cpCells
  | 6 => kxCells
  | _ => syncCells

/-- The bytes of one section. -/
def State.sectionOf (s : State) (bn : BayNo) (k : Nat) : List Byte :=
  let b := s.bay bn
  if k = 8 then (List.range 256).flatMap fun h => leBytes (b.tile (BitVec.ofNat 8 h)).saved.toNat 48
  else if k = 9 then (b.tiles.filter fun e => e.2.alloc != 0).flatMap fun e => s.tileBytes bn e.2
  else Cell.save (b.sectionCells k) b

/-- The directory of sections that begin at an offset. -/
def directory : Nat → List (Nat × List Byte) → List Byte
  | _, [] => []
  | off, (k, bs) :: t => leBytes (off * 2 ^ 64 + bs.length * 2 ^ 32 + k) 16 ++ directory (off + bs.length) t

/-- A container's header (R386). -/
def saveHeader (len nsec : Nat) (t : TaskId) (kind : Nat) (c : CtxNo) (now : Nat) : Nat :=
  len * 2 ^ 192 + nsec * 2 ^ 160 + t.toNat * 2 ^ 144 + kind * 2 ^ 136 + c.toNat * 2 ^ 130 + 2 ^ 128 +
    now % 2 ^ 64 * 2 ^ 64 + 64 * 2 ^ 48 + 2 ^ 40 + 0x5653575A

/-- Writes the container of a bay's task into the save area. -/
def State.writeContainer (s : State) (bn : BayNo) (t : TaskId) (off : Nat) : State :=
  let b := s.bay bn
  let secs := (sectionKinds (bayKind bn)).map fun k => (k, s.sectionOf bn k)
  let n := 64 + 16 * secs.length
  let body := secs.flatMap fun e => e.2
  s.homeStore b.ctx saveArea off
    (leBytes (saveHeader (n + body.length) secs.length t (bayKind bn) b.ctx s.now) 64 ++ directory n secs ++ body)

/-- The bytes of the section of a KIND in a container, none where it has none. -/
def sectionBytesOf (read : Nat → Nat → List Byte) (dir : List (BitVec 128)) (kind : Nat) : List Byte :=
  match dir.find? fun d => (d.extractLsb' 0 16).toNat == kind with
  | some d => read (d.extractLsb' 64 64).toNat (d.extractLsb' 32 32).toNat
  | none => []

/-- Whether a container can be read onto a bay of a KIND (R388). -/
def containerOk (h : BitVec 512) (dir : List (BitVec 128)) (kind : Nat) : Bool :=
  h.extractLsb' 0 32 == 0x5653575A#32 && h.extractLsb' 40 8 == 1#8 && h.getLsbD 128 &&
    (h.extractLsb' 136 8).toNat == kind &&
    dir.all fun d => (decide (1 ≤ (d.extractLsb' 0 16).toNat) && decide ((d.extractLsb' 0 16).toNat ≤ 9)) || d.getLsbD 16

/-- A bay's state with sections 1 to 7 of a container placed back over what the yard kept of the task; d is the state at
dispatch. The length of a later section's items follows from the earlier ones. Of the weight buffer nothing but what the
container holds returns (R242, R269). -/
def Bay.placeBack (d img : Bay) (kind : Nat) (sec : Nat → List Byte) : Bay :=
  ((sectionKinds kind).filter fun k => k < 8).foldl
    (fun b k =>
      if k = 3 then
        let b1 := Cell.load d mxCells ((sec 3).take 132344) { b with mx := { b.mx with w := {} } }
        Cell.load d (weightCells b1.mx.w) ((sec 3).drop 132344) b1
      else Cell.load d (b.sectionCells k) (sec k) b) img

/-- The tile table that a TTAB section holds; a missing entry is a free handle. -/
def savedTiles (bs : List Byte) : Tab Tile :=
  ((List.range 256).map fun h => (h, Tile.ofSaved (BitVec.ofNat 384 (leNat ((bs.drop (48 * h)).take 48))))).filter
    fun e => e.2.alloc != 0

/-- Puts the contents of tiles back, in handle order. -/
def State.putTiles (s : State) (bn : BayNo) : Tab Tile → List Byte → State
  | [], _ => s
  | (_, t) :: r, bs =>
    (s.setTileMem bn t ((s.tileMem bn t).writeN (64 * t.base) (bs.take (64 * t.lines)))).putTiles bn r
      (bs.drop (64 * t.lines))

/-- Lines of a bay's allocated tiles. -/
def Bay.tileLines (b : Bay) : Nat := ((b.tiles.filter fun e => e.2.alloc != 0).map fun e => e.2.lines).sum

/-- Bytes of the matrix section: weight rows and blocks as the task holds them (R269, R389). -/
def Mx.saveBytes (m : Mx) : Nat :=
  132344 + m.w.hi * 16 * fmtBits m.w.fmt + (if m.w.g1 = 1 ∧ m.w.hi ≠ 0 then ((m.w.hi - 1) / 64 + 1) * 512 else 0)

/-- The greatest length of a bay's container (R389). -/
def Bay.saveBytes (kind : Nat) (b : Bay) : Nat :=
  64 + 16 * (sectionKinds kind).length + 68777 + (if kind = 3 then b.mx.saveBytes else 0) + 64 * b.tileLines

end Sys2Proof.Machine
end

