-- ==== Sys2Proof/Machine/Yard.lean ====
section
/-! DEFINITION. The yard: task records and their placing, ready queues and dispatch, dependence counting, completion,
graphs, pre-emption and restore, watchdogs, kills, and the task instructions (R21 to R25, R347 to R367, R385 to R393). -/
namespace Sys2Proof.Machine

/-! ### Presence and profiles (R18, R21, R22) -/

/-- KIND of a task class (R349). -/
def clsKind (cls : BitVec 2) : Nat := cls.toNat + 3
/-- The shed numbers of a KIND. -/
def shedsOf (kind : Nat) : List (BitVec 4) := ((List.range 16).map (BitVec.ofNat 4)).filter fun n => shedKind n == kind
/-- Whether AFF admits a shed (R349). -/
def affOk (aff : BitVec 16) (n : BitVec 4) : Bool := aff == 0 || aff.getLsbD n.toNat
/-- Whether a class is present for a task of that affinity (R21, R353). -/
def State.present (s : State) (kind : Nat) (aff : BitVec 16) : Bool :=
  (shedsOf kind).any fun n => s.liveMask n != 0 && affOk aff n
/-- The version of a profile that the package supports, 0 when absent (R18). -/
def State.profileVersion (s : State) (p : Nat) : Nat :=
  match p with
  | 0 | 2 | 3 | 4 => 2
  | 1 => if s.present 3 0 then 2 else 0
  | 5 => if s.present 4 0 then 1 else 0
  | 6 => if s.present 6 0 then 1 else 0
  | _ => 0

/-! ### The task record (R349, R350, R352) -/

/-- A task record: 64 bytes. -/
abbrev TaskRecord := BitVec 512

def recCls (r : TaskRecord) : BitVec 2 := r.extractLsb' 2 2
def recPol (r : TaskRecord) : Nat := (r.extractLsb' 4 2).toNat
def recPri (r : TaskRecord) : Nat := (r.extractLsb' 6 3).toNat
def recNsuc (r : TaskRecord) : Nat := (r.extractLsb' 9 3).toNat
def recRel (r : TaskRecord) : Bool := r.getLsbD 12
def recList (r : TaskRecord) : Bool := r.getLsbD 13
def recCapm (r : TaskRecord) : BitVec 6 := r.extractLsb' 14 6
def recCode (r : TaskRecord) : Nat := (r.extractLsb' 20 12).toNat
def recAff (r : TaskRecord) : BitVec 16 := r.extractLsb' 32 16
def recCnt (r : TaskRecord) : BitVec 16 := r.extractLsb' 48 16
def recSuc (r : TaskRecord) (k : Nat) : BitVec 16 := r.extractLsb' (64 + 16 * k) 16
def recLcnt1 (r : TaskRecord) : Nat := (r.extractLsb' 64 16).toNat
def recLoff (r : TaskRecord) : Nat := (r.extractLsb' 80 24).toNat
def recLbuf (r : TaskRecord) : BufId := r.extractLsb' 104 24
def recArg (r : TaskRecord) (k : Nat) : Word := r.extractLsb' (128 + 64 * k) 64

/-- Whether a record is malformed in a graph of ntask image tasks (R352). -/
def recMalformed (ntask : Nat) (r : TaskRecord) : Bool :=
  r.extractLsb' 0 2 != 0 || recPol r == 3 || decide (4 < recNsuc r) || (recList r && recNsuc r != 0) ||
    (List.range 6).any (fun k => (recCapm r).getLsbD k && (recArg r k).extractLsb' 28 36 != 0) ||
    (recRel r && (List.range (recNsuc r)).any fun k => decide (ntask ≤ (recSuc r k).toNat))

/-! ### Code table and code object (R73 to R75, R351) -/

/-- The code table's buffer id (R351). -/
def codeTable : BufId := 0xFFFFFD

/-- The code-table entry that a CODE names (R351). -/
def State.codeEntry (s : State) (c : CtxNo) (code : Nat) : BitVec 128 :=
  BitVec.ofNat 128 (leNat (s.homeBytes c codeTable (16 * code) 16))
/-- CBUF of an entry. -/
def entryBuf (e : BitVec 128) : BufId := e.extractLsb' 32 24
/-- The main entry offset that an entry gives, 0 for the header's (R351). -/
def entryOff (e : BitVec 128) : Nat := 2 * (e.extractLsb' 1 31).toNat

/-- A code object's header (R73). -/
abbrev CodeHead := BitVec 512
def State.codeHead (s : State) (c : CtxNo) (b : BufId) : CodeHead := BitVec.ofNat 512 (leNat (s.homeBytes c b 0 64))
def headCsize (h : CodeHead) : Nat := (h.extractLsb' 64 32).toNat
def headEntry (h : CodeHead) : Nat := (h.extractLsb' 96 32).toNat
def headEclass (h : CodeHead) : Nat := (h.extractLsb' 128 8).toNat
def headFclass (h : CodeHead) : Nat := (h.extractLsb' 136 8).toNat
def headNprof (h : CodeHead) : Nat := (h.extractLsb' 144 16).toNat
def headFentry (h : CodeHead) : Nat := (h.extractLsb' 160 32).toNat
def headFbusy (h : CodeHead) : Nat := (h.extractLsb' 192 20).toNat
def headPoff (h : CodeHead) : Nat := (h.extractLsb' 224 32).toNat

/-- The profile records of a code object (R74). -/
def State.codeProfiles (s : State) (c : CtxNo) (b : BufId) (h : CodeHead) : List Word :=
  (List.range (headNprof h)).map fun k => BitVec.ofNat 64 (leNat (s.homeBytes c b (headPoff h + 8 * k) 8))
def profId (p : Word) : Nat := (p.extractLsb' 0 8).toNat
def profVers (p : Word) : Nat := (p.extractLsb' 8 8).toNat
def profMain (p : Word) : Bool := p.getLsbD 16
def profFall (p : Word) : Bool := p.getLsbD 17

/-- Whether an offset is an entry point of a code object of a size (R75). -/
def entryOk (csize off : Nat) : Bool := off % 4 == 0 && decide (64 ≤ off) && decide (off < csize)

/-- Whether a code object is invalid (R75), with the entry that the code table gives instead of ENTRY (R351). A header outside
R73's ranges that R75 does not list (NPROF above 16, POFF no multiple of 8, CSIZE no multiple of 4, reserved bits not 0) leaves
the object valid, and all its NPROF records are read (DESIGN CHOICE, log 72). A profile record counts as reserved, and makes
the object invalid, when its PROF is one of the reserved codes 7 to 255 and also when one of its reserved bits [63:18] is not
0 (DESIGN CHOICE, log 73). -/
def State.codeInvalid (s : State) (c : CtxNo) (b : BufId) (eoff : Nat) : Bool :=
  let h := s.codeHead c b
  h.extractLsb' 0 64 != 0x00400001434F575A || decide (s.bufSize c b < headCsize h) ||
    !entryOk (headCsize h) (headEntry h) || (headFentry h != 0 && !entryOk (headCsize h) (headFentry h)) ||
    (eoff != 0 && !entryOk (headCsize h) eoff) ||
    decide (headEclass h < 3) || decide (6 < headEclass h) ||
    (headFclass h != 0 && (decide (headFclass h < 3) || decide (6 < headFclass h))) || headFclass h == headEclass h ||
    decide (headCsize h < headPoff h + 8 * headNprof h) ||
    (let ps := s.codeProfiles c b h
     ps.any (fun p => p.toNat / 2 ^ 18 != 0 || decide (6 < profId p) || (!profMain p && !profFall p)) ||
       !ps.any (fun p => profId p == 0 && profMain p) ||
       (headFclass h != 0 && !ps.any fun p => profId p == 0 && profFall p))

/-- Whether the package supports every profile that an entry declares (R22, R75). -/
def State.supports (s : State) (ps : List Word) (fall : Bool) : Bool :=
  ps.all fun p =>
    !(if fall then profFall p else profMain p) ||
      (s.profileVersion (profId p) != 0 && decide (profVers p ≤ s.profileVersion (profId p)))

/-! ### Placing a record (R22, R23, R353) -/

/-- Why a record is not placed. -/
inductive PlaceErr where
  | malformed | remote | code | absent | cap
deriving DecidableEq, Repr

/-- Rights that no capability to a buffer may carry (R17, R395). -/
def forbiddenRights (b : BufId) : BitVec 4 :=
  if b = 0xFFFFFF ∨ b = 0xFFFFFB ∨ b = 0xFFFFFA then 2 else if b = runtimeBuf then 15 else 0

/-- Whether argument k of a record carries a capability that may be bound (R353 step 4). -/
def State.capArgOk (s : State) (c : CtxNo) (r : TaskRecord) (k : Nat) : Bool :=
  let b : BufId := (recArg r k).extractLsb' 0 24
  let rights : BitVec 4 := (recArg r k).extractLsb' 24 4
  match s.buf? c b with
  | none => false
  | some f => rights &&& (forbiddenRights b ||| ~~~f.rights) == 0 && f.count != 0xFFFFFFFF && b != runtimeBuf

/-- Judges a record by steps 1 to 4 of R353: the code it binds, the class queue it enters and whether at its fallback
entry. A code object out of reach cannot be read (R407). FCLASS other than 0 with FENTRY 0, which R75 does not name
among the invalid cases, leaves the object valid and its fallback unusable (DESIGN CHOICE, log 64). -/
def State.judgeRecord (s : State) (c : CtxNo) (ntask : Nat) (r : TaskRecord) :
    Except PlaceErr (CodeRef × BitVec 2 × Bool) :=
  let e := s.codeEntry c (recCode r)
  let b := entryBuf e
  let h := s.codeHead c b
  if recMalformed ntask r then .error .malformed
  else if e.getLsbD 0 && s.unreachable c b then .error .remote
  else if !e.getLsbD 0 || s.codeInvalid c b (entryOff e) || clsKind (recCls r) != headEclass h then .error .code
  else
    let ps := s.codeProfiles c b h
    let usable := headFclass h != 0 && s.present (headFclass h) (recAff r) && s.supports ps true &&
      entryOk (headCsize h) (headFentry h)
    let code : CodeRef :=
      { buf := b, size := headCsize h, entry := if entryOff e = 0 then headEntry h else entryOff e,
        fclass := headFclass h, fentry := headFentry h, fbusy := headFbusy h, usable := usable }
    let here := s.present (headEclass h) (recAff r) && s.supports ps false
    if !here && (recPol r == 0 || !usable) then .error .absent
    else if (List.range 6).any fun k => (recCapm r).getLsbD k && !s.capArgOk c r k then .error .cap
    else .ok (code, if here then recCls r else BitVec.ofNat 2 (headFclass h - 3), !here)

/-- Counts the references that a record's capability arguments take (R353 step 4). -/
def State.countArgs (s : State) (c : CtxNo) (r : TaskRecord) : State :=
  (List.range 6).foldl
    (fun s k => if (recCapm r).getLsbD k then s.addRef c ((recArg r k).extractLsb' 0 24) else s) s

/-- Places a judged record into a slot (R353 step 5). -/
def State.placeTask (s : State) (c : CtxNo) (t : TaskId) (g : BitVec 12) (gbase : BitVec 16) (r : TaskRecord)
    (j : CodeRef × BitVec 2 × Bool) : State :=
  (s.countArgs c r).setSlot t
    { state := if recCnt r = 0 then .ready else .waiting, ctx := c, cntr := recCnt r, graph := g, gbase := gbase,
      age := if recCnt r = 0 then s.now else 0, record := r, code := j.1, args := (List.range 6).map (recArg r),
      capm := recCapm r, cls := j.2.1, fallback := j.2.2 }

/-- Makes a slot FREE. -/
def State.freeSlot (s : State) (t : TaskId) : State := s.modYard fun y => { y with slots := y.slots.erase t.toNat }

/-- Slots of a context that are not FREE (R347). -/
def State.resident (s : State) (c : CtxNo) : Nat :=
  (s.yard.slots.filter fun e => e.2.state != .free && e.2.ctx == c).length

/-- The slots that are not FREE, as runs of one. -/
def State.slotRuns (s : State) : List (Nat × Nat) :=
  (s.yard.slots.filter fun e => e.2.state != .free).map fun e => (e.1, 1)

/-- The NTASK of a graph (R352). -/
def State.graphTasks (s : State) (g : BitVec 12) : Nat := ((s.yard.graphs.find? g.toNat).map Graph.ntask).getD 0

/-! ### Task instructions (R363 to R367) -/

/-- TASK.SPAWN at the yard: the result, and the state with the task placed. A code object that no path reaches gives −3, as
an invalid one does, and stops no queue, since no packet asked for it (DESIGN CHOICE, log 72). -/
def State.spawn (s : State) (c : CtxNo) (g : BitVec 12) (gbase : BitVec 16) (r : TaskRecord) : Word × State :=
  match lowestRun s.slotRuns Config.taskSlots 1 with
  | none => (minusOne, s)
  | some n =>
    if (s.ctx c).qslot.toNat ≤ s.resident c then (minusOne, s)
    else match s.judgeRecord c (s.graphTasks g) r with
    | .ok j => (BitVec.ofNat 64 n, s.placeTask c (BitVec.ofNat 16 n) g gbase r j)
    | .error .absent => (minusTwo, s)
    | .error _ => (minusThree, s)

/-- TASK_SPAWN (R363). -/
def execTaskSpawn (rd rs1 : Reg) (s : State) : Out :=
  let b := s.bay s.cur
  let v := b.gen.rd rs1
  let x := s.slot (b.task.getD 0)
  if s.ended s.cur then onCur s fun b => b.illegal (instrWord (.taskSpawn rd rs1))
  else if v.toNat % 64 ≠ 0 then onCur s fun b => b.fault cOperand v
  else match genRead s v 64 b.gen.zclass.toNat with
  | .error f => onCur s f
  | .ok r =>
    let w : TaskRecord := BitVec.ofNat 512 (leNat r.1)
    if recMalformed (s.graphTasks x.graph) w || recCapm w != 0 then onCur r.2 fun b => b.fault cOperand v
    else
      let y := ((r.2.release (shedOf s.cur) allClasses 2).forkAt s.cur 2).spawn b.ctx x.graph x.gbase w
      onCur y.2 fun b => b.ask (.taskSpawn rd rs1) { rd := rd, val := y.1 }

/-- The cycle in which what a bay sends the counting unit arrives: the next one, once the unit has taken up a higher bay's
arrival of this cycle (R354; log 73). -/
def State.arrival (s : State) (bay : BayNo) : Nat := if bay.toNat < s.yard.unit.floor then s.now + 1 else s.now

/-- TASK_DEC (R364): the decrement goes to the counting unit, whose answer ends the wait. -/
def execTaskDec (rs1 : Reg) (s : State) : Out :=
  let b := s.bay s.cur
  let v := b.gen.rd rs1
  if v.toNat / 2 ^ 16 ≠ 0 then onCur s fun b => b.fault cOperand v
  else
    let d : Decrement :=
      { src := b.task.getD 0, bay := s.cur, ctx := b.ctx, dec := 2, target := v.extractLsb' 0 16, first := true,
        time := s.arrival s.cur }
    let s1 := (s.release (shedOf s.cur) allClasses 2).forkAt s.cur 2
    onCur (s1.modYard fun y => { y with decs := y.decs ++ [d] }) fun b =>
      b.ask (.taskDec rs1) { ready := false }

/-- The generator parks at its pc (R365). -/
def Bay.park (b : Bay) : Bay := (b.modGen fun g => { g.countRetire with wait := none, parked := true }).progress

/-- TASK_END (R365). -/
def execTaskEnd (s : State) : Out :=
  let b := s.bay s.cur
  let k := bayKind s.cur
  if !b.pend.isEmpty then onCur s fun b => b.fault cPrefixCount 0
  else if s.ended s.cur then onCur s Bay.park
  else if !b.roomAll k then onCur s fun b => b.poll .taskEnd
  else
    let s1 := match b.task with
      | some t => s.modSlot t fun x => { x with endf := true, state := .ending }
      | none => s
    onCur s1 fun b => (b.placeAll k .notify).park

/-- A bay without a task: what the next binding may keep stays (R155, R242), and so does a debug stop, which the restart
alone ends (R399; log 17); the rest is as at reset. -/
def Bay.vacate (b : Bay) : Bay :=
  { Bay.reset with ctx := b.ctx, lastCtx := b.lastCtx, gen := { csr := b.gen.csr }, firmware := b.firmware, store := b.store,
                   mx := { b.mx with arrays := [], port := none }, debugStop := b.debugStop }

/-- No pre-emption is under way in the bay's class any longer, if the bay was being saved (R360). -/
def State.clearPre (s : State) (bn : BayNo) : State :=
  if (s.bay bn).saving ∧ (s.slot ((s.bay bn).task.getD 0)).state ≠ .saved then
    s.modYard fun y => { y with preBusy := y.preBusy &&& ~~~(BitVec.ofNat 4 (2 ^ (bayKind bn - 3))) }
  else s

/-- The groups that have entered the array retire (R244). -/
def State.settleMx (s : State) (bn : BayNo) : Nat → State
  | 0 => s
  | n + 1 => if s.mustRetire bn then (s.stepGroup bn).settleMx bn n else s

/-- A vector word that goes on after a fault or a stop runs to its end, unless it stands at a hazard (R282). -/
def State.finishVx (s : State) (bn : BayNo) : State :=
  match (s.bay bn).vx.stopped with
  | some j => if j.due.isSome then s else s.continueVx bn j
  | none => s

/-- Every vector write in flight lands. -/
def State.landBay (s : State) (bn : BayNo) : State := s.landAll bn (s.bay bn).vx.pend.length

/-- Executing words stop as TASK.ABORT gives: vector and class-engine words at their end, matrix words once their
groups in the array have retired, copies at the row boundary where they stand, with what they have sent (R366). -/
def State.stopWords (s : State) (bn : BayNo) : State :=
  ((((s.finishVx bn).landBay bn).settleMx bn (8 * (s.bay bn).mx.arrays.length)).runKx bn 4097).settleBay bn

/-- A bay of a class is free: the class's busy count returns to 0 (R24). -/
def State.classFree (s : State) (bn : BayNo) : State :=
  s.modYard fun y => { y with busy := setAt 0 4 y.busy (bayKind bn - 3) 0 }

/-- Frees a bay: its tiles, the capabilities it holds, and all else of its task (R153, R168). -/
def State.vacateBay (s : State) (bn : BayNo) : State :=
  ((((s.clearPre bn).freeTiles bn).dropCaps bn).modBay bn Bay.vacate).classFree bn

/-- An event record of R356's layout. -/
def eventRecord (now dec tgt bay src kind : Nat) : Nat :=
  now % 2 ^ 64 * 2 ^ 192 + dec * 2 ^ 96 + tgt * 2 ^ 80 + bay * 2 ^ 72 + src * 2 ^ 64 + kind

/-- TASK_ABORT (R366). The record's DEC and SRC are stated for no such record: free values (log 3). -/
def execTaskAbort (s : State) : Out :=
  let b := s.bay s.cur
  let t := b.task.getD 0
  let f := s.draw
  let s1 := ((f.2.stopWords s.cur).flushCounters s.cur).vacateBay s.cur
  .next ((s1.event b.ctx
    (eventRecord s.now (f.1.extractLsb' 0 16).toNat t.toNat s.cur.toNat (f.1.extractLsb' 16 8).toNat 0x12)).freeSlot t)

/-- TASK_ARG (R367). -/
def execTaskArg (rd rs1 : Reg) (s : State) : Out :=
  onCur s fun b =>
    let n := (b.gen.rd rs1).toNat
    if 5 < n then b.fault cOperand (b.gen.rd rs1)
    else b.retireWith rd (if b.capm.getLsbD n then slotWord n else b.args.getD n 0)

/-- TASK_ID (R367). -/
def execTaskId (rd : Reg) (s : State) : Out :=
  let t := (s.bay s.cur).task.getD 0
  onCur s fun b => b.retireWith rd (zext ((s.slot t).gbase ++ t))

/-- ROOM_ACCEPT (R115): a waiting instruction of the emit path executes again, and goes on if it has room. -/
def execRoomAccept (bay : BayNo) (s : State) : Out :=
  onWaiting s bay fun i s =>
    match i with
    | .emit a => some (execEmit a s)
    | .emit2 a => some (execEmit2 a s)
    | .emits a b => some (execEmits a b s)
    | .tfree a => some (execTfree a s)
    | .taskEnd => some (execTaskEnd s)
    | _ => none

/-! ### Choosing -/

/-- The least of a list under an order, the first one at a tie. -/
def pick {α : Type} (lt : α → α → Bool) : List α → Option α
  | [] => none
  | a :: t => match pick lt t with
    | none => some a
    | some b => some (if lt b a then b else a)

/-! ### Counting dependences (R354 to R357) -/

/-- The order in which the counting unit takes decrements: by arrival, then by source bay (R354). -/
def decBefore (a b : Nat × Decrement) : Bool :=
  decide (a.2.time < b.2.time) || (a.2.time == b.2.time && decide (a.2.bay.toNat < b.2.bay.toNat))

/-- Whether a decrement is discarded (R355). -/
def State.underflows (s : State) (d : Decrement) : Bool :=
  let x := s.slot d.target
  x.state != .waiting || x.ctx != d.ctx || x.cntr == 0

/-- Whether the counting unit may still apply a decrement in this cycle: it has arrived, and at most two completions and
TASK.DECs are taken up in a cycle, and at most four decrements of one applied (R354). -/
def CountUnit.takes (u : CountUnit) (now : Nat) (d : Decrement) : Bool :=
  decide (d.time ≤ now) && (if d.first then decide (u.taken < 2) else decide (u.applied < 4))

/-- The counting unit once it has applied a decrement. -/
def CountUnit.after (u : CountUnit) (now : Nat) (d : Decrement) : CountUnit :=
  { taken := if d.first then u.taken + 1 else u.taken
    applied := if d.first then 1 else u.applied + 1
    floor := if d.time = now then max u.floor d.bay.toNat else u.floor }

/-- Applies a decrement to its target's counter (R355). -/
def State.decrement (s : State) (d : Decrement) : State :=
  let x := s.slot d.target
  if s.underflows d then
    s.event d.ctx (eventRecord s.now d.src.toNat d.target.toNat d.bay.toNat d.dec.toNat 0x10)
  else if x.cntr = 1 then s.setSlot d.target { x with cntr := 0, state := .ready, age := s.now }
  else s.setSlot d.target { x with cntr := x.cntr - 1 }

/-- The counting unit's answer to the TASK.DEC of a bay (R364). -/
def Bay.decAnswer (b : Bay) (d : Decrement) (under : Bool) : Bay :=
  match b.gen.wait with
  | some (.yard i a) =>
    if a.ready || b.task != some d.src then b
    else b.ask i { a with ready := true,
                          fault := if under then some (cUnderflow, 0x04#8 ++ 0#24 ++ d.target ++ d.src) else none }
  | _ => b

/-- One decrement (R355 to R357, R415): its record is written before its answer. -/
def State.applyDecrement (s : State) (d : Decrement) : State :=
  let under := s.underflows d
  let s1 := if d.bad then s.event d.ctx (eventRecord s.now d.src.toNat 0xFFFF d.bay.toNat 1 0x11) else s.decrement d
  let s2 := if d.dec = 2 then s1.modBay d.bay fun b => b.decAnswer d under else s1
  if d.last then s2.freeSlot d.src else s2

/-- APPLY_DECREMENT (R354, R355). One completion's successors are applied before the next one's (log 73). -/
def execApplyDecrement (s : State) : Out :=
  match pick decBefore ((List.range s.yard.decs.length).zip s.yard.decs) with
  | none => .next s
  | some (k, d) =>
    if s.yard.unit.takes s.now d then
      .next ((s.modYard fun y => { y with decs := y.decs.eraseIdx k, unit := y.unit.after s.now d }).applyDecrement d)
    else .next s

/-! ### Completion (R204, R357, R361, R362) -/

/-- The successor that entry k of a list names, none where its read fails (R357). Each entry is judged by itself, so that of a
list that lies partly beyond the buffer only the entries beyond fail; an entry of a buffer whose home no path reaches fails as
well, with the record of KIND 0x11 beside the stop of R407 (`State.loseList`) (DESIGN CHOICE, log 72). -/
def State.listEntry (s : State) (x : TaskSlot) (k : Nat) : Option TaskId :=
  let b := recLbuf x.record
  let off := 64 * recLoff x.record + 2 * k
  match s.buf? x.ctx b with
  | none => none
  | some f =>
    let id : BitVec 16 := BitVec.ofNat 16 (leNat (s.homeBytes x.ctx b off 2))
    if f.size < off + 2 ∨ s.unreachable x.ctx b ∨ (recRel x.record ∧ s.graphTasks x.graph ≤ id.toNat) then none
    else some (if recRel x.record then x.gbase + id else id)

/-- The successors of a task, in the order in which they are applied. -/
def State.successors (s : State) (x : TaskSlot) : List (Option TaskId) :=
  if recList x.record then (List.range (recLcnt1 x.record + 1)).map (s.listEntry x)
  else (List.range (recNsuc x.record)).map fun k =>
    some (if recRel x.record then x.gbase + recSuc x.record k else recSuc x.record k)

/-- Marks the last decrement of a completion. -/
def markLast : List Decrement → List Decrement
  | [] => []
  | [d] => [{ d with last := true }]
  | d :: t => d :: markLast t
/-- Marks the first decrement of a completion. -/
def markFirst : List Decrement → List Decrement
  | [] => []
  | d :: t => { d with first := true } :: t

/-- The decrements that a completion makes. -/
def State.completionDecs (s : State) (t : TaskId) (bn : BayNo) : List Decrement :=
  let x := s.slot t
  markFirst (markLast ((s.successors x).map fun o =>
    { src := t, bay := bn, ctx := x.ctx, dec := 1, target := o.getD 0xFFFF, bad := o.isNone, time := s.arrival bn }))

/-- Writes back the lines of one buffer in a shed's cache. -/
def State.writeBackBuf (s : State) (shed : BitVec 4) (c : CtxNo) (b : BufId) : State :=
  ((s.shed shed).cache.filter fun e => keyOf c b e.1).foldl (fun s e => s.writeBack shed e.1) s

/-- The release of a task's end or save: c0 to c14 at PACKAGE scope, of what every word has sent, and its context's descriptor
table, whatever the classes of its lines (R181, R204, R385). -/
def State.taskRelease (s : State) (bn : BayNo) : State :=
  (((s.flushCounters bn).settleBay bn).release (shedOf bn) allClasses 2).writeBackBuf (shedOf bn) (s.bay bn).ctx descBuf

/-- The acquire of a task's start or restore (R181, R204). -/
def State.taskAcquire (s : State) (bn : BayNo) (c : CtxNo) : State :=
  (s.acquire (shedOf bn) allClasses 2).modShed (shedOf bn) fun d =>
    { d with cache := d.cache.filter fun e => !(keyOf c descBuf e.1 && e.2.dirty == 0) }

/-- Whether every queue of a bay has drained to its notify (R361). -/
def Bay.drained (kind : Nat) (b : Bay) : Bool :=
  (queueIds kind).all fun q => b.idle q && ((b.head? q).map Entry.kind) == some .notify

/-- Whether the combiner may declare a bay's task complete (R361). A bay that a debug stop holds declares nothing until it is
restarted (R399; DESIGN CHOICE, log 73). -/
def State.mayComplete (s : State) (bn : BayNo) : Bool :=
  let b := s.bay bn
  b.task.isSome && s.ended bn && b.gen.parked && !b.saving && !b.debugStop && b.drained (bayKind bn)

/-- Stops a submission queue with a cause (R375): where the packet stands, and vector 2 + q. -/
def State.stopQueue (s : State) (q : BitVec 6) (stat : Byte) (bpn : BitVec 2) : State :=
  let x := s.sq q
  let n := x.levels.length - 1
  let l := x.levels.getD n {}
  let soff := match l.buf with
    | none => l.pos
    | some (_, off) => off / 4 + l.pos
  (s.modSq q fun x => { x with stat := stat, bpn := bpn, soff := BitVec.ofNat 30 soff, slev := BitVec.ofNat 2 n,
                               waiting := false, image := none }).interrupt x.func (2 + q.toNat)

/-- A yard request for a successor list whose home no path reaches stops the queue that launched the task's graph, with
STAT 2 (R407; that the request is that queue's is log 72). -/
def State.loseList (s : State) (x : TaskSlot) : State :=
  match s.yard.graphs.find? x.graph.toNat with
  | some g => if recList x.record && s.unreachable x.ctx (recLbuf x.record) then s.stopQueue g.sq 2 0 else s
  | none => s

/-- The completion of a bay's task: the release, the tiles and capabilities, then the successors, whose list is read when
the task holds nothing any longer (R361). -/
def State.complete (s : State) (bn : BayNo) : State :=
  let t := (s.bay bn).task.getD 0
  let s1 := (s.taskRelease bn).vacateBay bn
  let s2 := s1.loseList (s1.slot t)
  let ds := s2.completionDecs t bn
  if ds.isEmpty then s2.freeSlot t else s2.modYard fun y => { y with decs := y.decs ++ ds }

/-- TASK_COMPLETION (R361). -/
def execTaskCompletion (bay : BayNo) (s : State) : Out :=
  onBay s bay fun s => if s.mayComplete bay then s.complete bay else s

/-- A graph's end (R362). An unreachable done word stops the queue that launched the graph (R407). -/
def State.endGraph (s : State) (g : BitVec 12) (x : Graph) : State :=
  let s1 := s.modYard fun y => { y with graphs := y.graphs.erase g.toNat }
  if !x.den || x.killed then s1
  else
    match s1.buf? x.ctx x.dbuf with
    | none => s1.event x.ctx (graphRecord s.now)
    | some f =>
      if f.size < x.doff + 8 then s1.event x.ctx (graphRecord s.now)
      else if s1.unreachable x.ctx x.dbuf then s1.stopQueue x.sq 2 0
      else (s1.countLoft x.ctx x.dbuf x.doff 15 2 1).atomic x.ctx x.dbuf x.doff 8 (fun v => v + 1) |>.2
where
  /-- The record of KIND 0x13 (R397). -/
  graphRecord (now : Nat) : Nat :=
    now % 2 ^ 64 * 2 ^ 192 + x.doff % 2 ^ 48 * 2 ^ 144 + x.dbuf.toNat * 2 ^ 120 + g.toNat * 2 ^ 80 + 0x13

/-- GRAPH_END (R362): none of the graph's tasks is resident. -/
def execGraphEnd (g : BitVec 12) (s : State) : Out :=
  match s.yard.graphs.find? g.toNat with
  | none => .next s
  | some x =>
    if s.yard.slots.any fun e => e.2.state != .free && e.2.graph == g then .next s else .next (s.endGraph g x)

/-! ### Ready queues and dispatch (R24, R25, R358, R359) -/

/-- The effective priority of a task that waits (R358). -/
def effPri (now : Nat) (x : TaskSlot) : Nat := recPri x.record - (now - x.age) / Config.ageStep

/-- The order in which tasks are taken: effective priority, AGE, task id (R359). -/
def taskBefore (now : Nat) (a b : Nat × TaskSlot) : Bool :=
  decide (effPri now a.2 < effPri now b.2) || (effPri now a.2 == effPri now b.2 &&
    (decide (a.2.age < b.2.age) || (a.2.age == b.2.age && decide (a.1 < b.1))))

/-- The free live bays of a KIND, in ascending order. -/
def State.freeBays (s : State) (kind : Nat) : List BayNo :=
  ((List.range 256).map (BitVec.ofNat 8)).filter fun b => bayKind b == kind && s.live b && (s.bay b).task.isNone

/-- The free admitted bay of lowest number. -/
def State.bayFor (s : State) (kind : Nat) (aff : BitVec 16) : Option BayNo :=
  (s.freeBays kind).find? fun b => affOk aff (shedOf b)

/-- Gives saved tiles lines again, in handle order, none where one does not fit (R153). -/
def placeTiles (occ0 occ1 : List (Nat × Nat)) : Tab Tile → Option (Tab Tile)
  | [] => some []
  | (h, t) :: r =>
    if t.alloc = 0 then placeTiles occ0 occ1 r
    else
      match lowestRun (if t.level = 0 then occ0 else occ1) (levelLines t.level) t.lines with
      | none => none
      | some a =>
        (if t.level = 0 then placeTiles ((a, t.lines) :: occ0) occ1 r else placeTiles occ0 ((a, t.lines) :: occ1) r).map
          fun l => (h, { t with base := a }) :: l

/-- Whether a context holds a grant in any shed (R210). -/
def State.holdsGrants (s : State) (c : CtxNo) : Bool :=
  s.sheds.any fun e => e.2.bars.any (fun b => b.2.owner == some c) || e.2.rings.any fun r => r.2.owner == some c

/-- Whether a bay can hold the restore of a saved task (R153, R210; log 21). -/
def State.canRestore (s : State) (x : TaskSlot) (b : BayNo) : Bool :=
  match x.saved with
  | none => false
  | some v => (placeTiles [] (s.occupied b 1) v.img.tiles).isSome && (!s.holdsGrants x.ctx || b == v.bayNo)

/-- The bay onto which a waiting task may go now. -/
def State.bayOf (s : State) (kind : Nat) (x : TaskSlot) : Option BayNo :=
  match s.bayFor kind (recAff x.record) with
  | none => none
  | some b => if x.state = .saved ∧ s.canRestore x b = false then none else some b

/-- Whether a SAVED task is dispatched already, to the bay that reads its container (R359, R388). -/
def State.restoring (s : State) (t : Nat) (x : TaskSlot) : Bool :=
  x.state == .saved && (s.bay x.bay).saving && (s.bay x.bay).task == some (BitVec.ofNat 16 t)

/-- The tasks that wait in a class's ready queues. -/
def State.readyTasks (s : State) (cls : BitVec 2) : List (Nat × TaskSlot) :=
  s.yard.slots.filter fun e => (e.2.state == .ready || e.2.state == .saved) && e.2.cls == cls &&
    !(e.2.state == .saved && e.2.saved.isNone) && !s.restoring e.1 e.2

/-- The S-mode CSRs at dispatch, the M-mode ones kept (R109). -/
def dispatchCsr (csr : Tab Word) (rtvec : BitVec 30) : Tab Word :=
  let g : Gen := { csr := csr }
  ((((((((g.csrSet 0x300 sstatusMask 0).csrWr 0x304 0x30000).csrWr 0x344 0).csrWr 0x105
    (63#6 ++ 0#26 ++ rtvec ++ 0#2)).csrWr 0x140 0).csrWr 0x141 0).csrWr 0x142 0).csrWr 0x143 0).csr

/-- The code address of an offset: SLOT 63 (R43). -/
def codePc (off : Nat) : Word := BitVec.ofNat 64 (63 * 2 ^ 58 + off % 2 ^ 32)

/-- The capability slots that a task's arguments bind (R168). -/
def argCaps (capm : BitVec 6) (args : List Word) : Tab Cap :=
  ((List.range 6).filter fun k => capm.getLsbD k).map fun k =>
    (k, { buf := (args.getD k 0).extractLsb' 0 24, rights := (args.getD k 0).extractLsb' 24 4 })

/-- A bay bound to a task that starts (R25, R108, R109, R155, R168, R208, R242). The context bound last is known by its
number: one destroyed and created again is the same to the bay (DESIGN CHOICE, log 64). In a bay that a debug stop holds the
task stands stopped (R399; log 17). -/
def Bay.bind (b : Bay) (t : TaskId) (x : TaskSlot) (rtvec : BitVec 30) : Bay :=
  let same := b.lastCtx == some x.ctx
  { Bay.reset with
    task := some t, ctx := x.ctx, lastCtx := some x.ctx, args := x.args, capm := x.capm, code := x.code.buf,
    csize := x.code.size, caps := argCaps x.capm x.args, firmware := b.firmware, debugStop := b.debugStop,
    store := if same then b.store else [], mx := if same then { b.mx with arrays := [], port := none } else Mx.reset,
    gen := { csr := dispatchCsr b.gen.csr rtvec, mode := 0,
             pc := codePc (if x.fallback then x.code.fentry else x.code.entry) } }

/-- Dispatches a task onto a bay (R359): a saved one binds the bay, whose store and matrix state are reset (R155, R242), and
which then reads its container. -/
def State.dispatch (s : State) (b : BayNo) (t : TaskId) (x : TaskSlot) : State :=
  let n := s.yard.orders + 1
  let s1 := s.modYard fun y => { y with orders := n }
  if x.state = .saved then
    (s1.setSlot t { x with bay := b, order := n }).modBay b fun y =>
      { y.vacate with task := some t, ctx := x.ctx, lastCtx := some x.ctx, saving := true, store := [], mx := Mx.reset }
  else
    ((s1.setSlot t { x with state := .running, bay := b, order := n }).modBay b fun y =>
      y.bind t x (s.ctx x.ctx).rtvec).taskAcquire b x.ctx

/-- TASK_DISPATCH (R359), once in a cycle for a class. -/
def execTaskDispatch (cls : BitVec 2) (s : State) : Out :=
  if s.yard.dispatched.getLsbD cls.toNat then .next s
  else match pick (taskBefore s.now) ((s.readyTasks cls).filter fun e => (s.bayOf (clsKind cls) e.2).isSome) with
  | none => .next s
  | some (t, x) =>
    match s.bayOf (clsKind cls) x with
    | none => .next s
    | some b => .next ((s.dispatch b (BitVec.ofNat 16 t) x).modYard fun y =>
        { y with dispatched := y.dispatched ||| BitVec.ofNat 4 (2 ^ cls.toNat) })

/-- FALLBACK_MOVE (R24), once in a cycle: an FBUSY of 0 makes policy 2 act as policy 1 (R75). -/
def execFallbackMove (cls : BitVec 2) (s : State) : Out :=
  if !(s.freeBays (clsKind cls)).isEmpty || s.yard.fellBack.getLsbD cls.toNat then .next s
  else match pick (taskBefore s.now) (s.readyTasks cls) with
  | none => .next s
  | some (t, x) =>
    if x.state = .ready ∧ recPol x.record = 2 ∧ !x.fallback ∧ x.code.usable ∧ x.code.fbusy ≠ 0 ∧
        x.code.fbusy ≤ s.yard.busy.getD cls.toNat 0 then
      .next ((s.setSlot (BitVec.ofNat 16 t) { x with cls := BitVec.ofNat 2 (x.code.fclass - 3), fallback := true }).modYard
        fun y => { y with fellBack := y.fellBack ||| BitVec.ofNat 4 (2 ^ cls.toNat) })
    else .next s

/-! ### Pre-emption (R360, R385, R389) -/

/-- The 64 KiB units of a context's save area that hold containers. -/
def State.savedRuns (s : State) (c : CtxNo) : List (Nat × Nat) :=
  (s.yard.slots.filter fun e => e.2.ctx == c).filterMap fun e =>
    e.2.saved.map fun v => (v.off / 65536, (v.len + 65535) / 65536)

/-- Where a container of n bytes finds room in a context's save area. -/
def State.saveRoom (s : State) (c : CtxNo) (n : Nat) : Option Nat :=
  (lowestRun (s.savedRuns c) ((s.ctx c).svmib.toNat * 16) ((n + 65535) / 65536)).map fun u => u * 65536

/-- Whether a task may be pre-empted in its class (R360, R389). -/
def State.isVictim (s : State) (cls : BitVec 2) (t : Nat) (x : TaskSlot) : Bool :=
  let b := s.bay x.bay
  (x.state == .running || x.state == .ending) && x.cls == cls && b.task == some (BitVec.ofNat 16 t) && !b.saving &&
    (s.ctx x.ctx).pre == 1 && decide (4 ≤ recPri x.record) &&
    (s.saveRoom x.ctx (b.saveBytes (bayKind x.bay))).isSome

/-- The order among victims: greatest PRI, latest dispatch, highest bay number (R360). -/
def victimBefore (a b : Nat × TaskSlot) : Bool :=
  decide (recPri b.2.record < recPri a.2.record) || (recPri b.2.record == recPri a.2.record &&
    (decide (b.2.order < a.2.order) || (b.2.order == a.2.order && decide (b.2.bay.toNat < a.2.bay.toNat))))

/-- Orders the save of a victim. -/
def State.orderSave (s : State) (cls : BitVec 2) (t : TaskId) (x : TaskSlot) : State :=
  let n := (s.bay x.bay).saveBytes (bayKind x.bay)
  let off := (s.saveRoom x.ctx n).getD 0
  ((s.setSlot t { x with saved := some { off := off, len := n, kind := bayKind x.bay, bayNo := x.bay,
                                         img := Bay.reset } }).modBay x.bay
    fun b => { b with saving := true, saveCount := 0 }).modYard fun y =>
      { y with preBusy := y.preBusy ||| BitVec.ofNat 4 (2 ^ cls.toNat) }

/-- PREEMPTION (R360). -/
def execPreemption (cls : BitVec 2) (s : State) : Out :=
  let wanted := s.yard.slots.any fun e => e.2.state == .ready && e.2.cls == cls && recPri e.2.record == 0 &&
    decide (Config.preemptWait ≤ s.now - e.2.age)
  if !wanted || s.yard.preBusy.getLsbD cls.toNat || !(s.freeBays (clsKind cls)).isEmpty then .next s
  else match pick victimBefore (s.yard.slots.filter fun e => s.isVictim cls e.1 e.2) with
  | none => .next s
  | some (t, x) => .next (s.orderSave cls (BitVec.ofNat 16 t) x)

/-- Whether the generator awaits the yard's acknowledgement, which the save lets come first (R385 step 1). -/
def Bay.awaitsYard (b : Bay) : Bool :=
  match b.gen.wait with
  | some (.yard _ _) => true
  | _ => false

/-- Whether the class engine stands: at a word boundary, at the fault that is held, or, while another fault is held, at a
row that would fault and is judged again when the bay goes on (R332, R380, R385). -/
def State.kxStands (s : State) (bn : BayNo) : Bool :=
  let b := s.bay bn
  match b.kx.job with
  | none => true
  | some j => b.kxHeld j || (b.wf.valid && match kxIndex j.instr with
    | some (h, _, _) => (s.rowBreak bn (b.tile h) j.head j.upc).isSome
    | none => false)

/-- Whether a bay that is being saved has come to its stop (R385 steps 1 to 3): words have run to their end, or stand
where a held fault has stopped them. -/
def State.stopDone (s : State) (bn : BayNo) : Bool :=
  let b := s.bay bn
  !b.debugStop && !b.awaitsYard &&
    (if b.wf.valid then !s.mustRetire bn else b.mx.arrays.isEmpty && b.mx.port.isNone) &&
    b.vx.stopped.all (fun j => j.due.isSome) && s.kxStands bn

/-- SAVE_COMPLETE (R385 steps 4 to 6). -/
def execSaveComplete (bay : BayNo) (s : State) : Out :=
  onBay s bay fun s =>
    let b := s.bay bay
    match b.task with
    | none => s
    | some t =>
      match (s.slot t).saved with
      | none => s
      | some v =>
        if !b.saving || (s.slot t).state == .saved || !s.stopDone bay then s
        else
          let s1 := (s.landBay bay).taskRelease bay
          let s2 := s1.writeContainer bay t v.off
          let s3 := (s2.clearPre bay).modSlot t fun x =>
            { x with state := .saved, age := s.now, saved := some { v with img := s2.bay bay } }
          ((s3.freeTiles bay).modBay bay Bay.vacate).classFree bay

/-! ### Context kill (R392, R393) -/

/-- The record of KIND 0x20 (R397). -/
def killRecord (now : Nat) (task : TaskId) (bay : BayNo) (cause : Byte) : Nat :=
  now % 2 ^ 64 * 2 ^ 192 + task.toNat * 2 ^ 80 + bay.toNat * 2 ^ 72 + cause.toNat * 2 ^ 64 + 0x20

/-- Drops the capabilities that a slot's task holds while no bay runs it: in argument slots before dispatch, in its
saved state afterwards. -/
def State.dropSlotCaps (s : State) (t : TaskId) (x : TaskSlot) : State :=
  match x.state with
  | .waiting | .ready => s.dropArgCaps t
  | .saved => ((x.saved.map fun v => v.img.caps).getD []).foldl (fun s e => s.dropRef x.ctx e.2.buf) s
  | .free | .running | .ending => s

/-- Takes every shed object of a context away from it. -/
def Shed.revokeAll (d : Shed) (c : CtxNo) : Shed :=
  { d with bars := d.bars.map fun e => (e.1, if e.2.owner = some c then { e.2 with owner := none } else e.2),
           rings := d.rings.map fun e => (e.1, if e.2.owner = some c then { e.2 with owner := none } else e.2) }

/-- Whether a task of a graph is resident. -/
def State.graphLives (s : State) (g : Nat) : Bool := s.yard.slots.any fun e => e.2.state != .free && e.2.graph.toNat == g

/-- Ends every task of a context (R392). A graph that has lost its last task before the kill ends as it would (R362). -/
def State.killContext (s : State) (c : CtxNo) (cause : Byte) (task : TaskId) (bay : BayNo) : State :=
  let mine := (s.bays.filter fun e => e.2.task.isSome && e.2.ctx == c).map fun e => BitVec.ofNat 8 e.1
  let s1 := mine.foldl (fun s b => (s.stopWords b).vacateBay b) s
  let s2 := (s1.yard.slots.filter fun e => e.2.ctx == c).foldl
    (fun s e => s.dropSlotCaps (BitVec.ofNat 16 e.1) e.2) s1
  let s3 := s2.modYard fun y =>
    { y with slots := y.slots.filter fun e => e.2.ctx != c
             decs := y.decs.filter fun d => d.ctx != c
             graphs := y.graphs.map fun e => (e.1, if s2.graphLives e.1 && e.2.ctx == c then { e.2 with killed := true } else e.2)
             sqs := y.sqs.map fun e => (e.1, if e.2.ctx = c then { e.2 with en := false } else e.2) }
  ({ s3 with sheds := s3.sheds.map fun e => (e.1, e.2.revokeAll c) } : State).event c (killRecord s.now task bay cause)

/-- Whether a bay's hang watchdog has expired (R390). -/
def Bay.hung (b : Bay) : Bool := b.gen.hlimit != 0 && decide (1024 * b.gen.hlimit.toNat ≤ b.hangCount)

/-- HANG (R390): at the first expiry the interrupt, at a second without progress between them the kill. -/
def execHang (bay : BayNo) (s : State) : Out :=
  onBay s bay fun s =>
    let b := s.bay bay
    match b.task with
    | none => s
    | some t =>
      if !b.hung then s
      else if b.hangOnce then s.killContext b.ctx 1 t bay
      else s.modBay bay fun b =>
        { b.modGen (fun g => g.csrWr 0x344 (g.csrRd 0x344 ||| 0x20000)) with hangCount := 0, hangOnce := true }

/-- Whether the save watchdog of a bay has expired (R391). -/
def State.saveExpired (s : State) (bay : BayNo) (t : TaskId) : Bool :=
  let b := s.bay bay
  b.saving && (s.slot t).state != .saved && decide (1024 * max 1 (s.ctx b.ctx).swlimit.toNat ≤ b.saveCount)

/-- A save that expires: the header's VALID stays 0 (R391). -/
def State.expireSave (s : State) (bay : BayNo) (t : TaskId) : State :=
  let c := (s.bay bay).ctx
  let off := (((s.slot t).saved.map Saved.off).getD 0) + 16
  (s.homeStore c saveArea off [s.homeByte c saveArea off &&& 0xFE]).killContext c 2 t bay

/-- SAVE_TIMEOUT (R391). -/
def execSaveTimeout (bay : BayNo) (s : State) : Out :=
  onBay s bay fun s =>
    match (s.bay bay).task with
    | none => s
    | some t => if s.saveExpired bay t then s.expireSave bay t else s

/-! ### Restore (R146, R153, R388) -/

/-- The standard CSRs after a restore: the task's S-mode values on the bay's own M-mode ones (R109, R145). -/
def restoreCsr (own saved : Tab Word) : Tab Word :=
  let g : Gen := { csr := own }
  let v : Gen := { csr := saved }
  let g1 := g.csrSet 0x300 sstatusMask (v.csrRd 0x300)
  ([0x304, 0x344, 0x105, 0x140, 0x141, 0x142, 0x143].foldl (fun g n => g.csrWr n (v.csrRd n)) g1).csr

/-- A queue as a restore leaves it: each sync word is judged afresh (R234). -/
def Queue.restored (q : Queue) : Queue := { q with ent := q.ent.map fun e => { e with since := none } }

/-- The bay with a saved task's state; tiles and their contents are placed beside it. What a held fault or a debug stop has
stopped stays stopped (R385, R399). -/
def Bay.restored (b img : Bay) (t : TaskId) (c : CtxNo) (tiles : Tab Tile) : Bay :=
  { img with
    task := some t, ctx := c, lastCtx := some c, icache := [], dcache := [], look := [], dlines := []
    firmware := b.firmware, store := [], mx := img.mx.resumed
    mtx := img.mtx.restored, vec := img.vec.restored, cin := img.cin.restored, cout := img.cout.restored
    cls := img.cls.restored
    wf := { img.wf with fresh := false }
    tiles := tiles, debugStop := b.debugStop, saving := false, saveCount := 0, hangCount := 0, hangOnce := false
    gen := { img.gen with csr := restoreCsr b.gen.csr img.gen.csr, wait := none } }

/-- Bytes of a saved task's container. -/
def State.containerRead (s : State) (x : TaskSlot) (v : Saved) (off n : Nat) : List Byte :=
  s.homeBytes x.ctx saveArea (v.off + off) n

/-- The header of a saved task's container. -/
def State.containerHead (s : State) (x : TaskSlot) (v : Saved) : BitVec 512 :=
  BitVec.ofNat 512 (leNat (s.containerRead x v 0 64))

/-- The directory of a saved task's container. -/
def State.containerDir (s : State) (x : TaskSlot) (v : Saved) : List (BitVec 128) :=
  (List.range ((s.containerHead x v).extractLsb' 160 32).toNat).map fun k =>
    BitVec.ofNat 128 (leNat (s.containerRead x v (64 + 16 * k) 16))

/-- The container that a bay has to read: the task, its slot and what the yard kept (R388). -/
def State.toRestore (s : State) (bay : BayNo) : Option (TaskId × TaskSlot × Saved) :=
  match (s.bay bay).task with
  | none => none
  | some t =>
    match (s.slot t).saved with
    | none => none
    | some v => if (s.bay bay).saving && (s.slot t).state == .saved then some (t, s.slot t, v) else none

/-- RESTORE (R146, R388): a container that cannot be read kills the context; a tile that does not fit yet waits. -/
def execRestore (bay : BayNo) (s : State) : Out :=
  onBay s bay fun s =>
    let b := s.bay bay
    match s.toRestore bay with
    | none => s
    | some (t, x, v) =>
      let dir := s.containerDir x v
      let sec := sectionBytesOf (s.containerRead x v) dir
      if !containerOk (s.containerHead x v) dir (bayKind bay) then s.killContext x.ctx 3 t bay
      else
        let passed (e : Nat × Tile) : Nat × Tile :=
          (e.1, { e.2 with passed := (v.img.tile (BitVec.ofNat 8 e.1)).passed })
        match placeTiles [] (s.occupied bay 1) ((savedTiles (sec 8)).map passed) with
        | none => s
        | some ts =>
          let img := (b.bind t x (s.ctx x.ctx).rtvec).placeBack v.img (bayKind bay) sec
          let s1 := (s.modBay bay fun b => b.restored img t x.ctx ts).putTiles bay ts (sec 9)
          (s1.setSlot t { x with state := if x.endf then .ending else .running, saved := none }).taskAcquire bay x.ctx

/-- Whether what a kill's cause names has happened in a bay (R393): a second expiry, a save that expired, a container
that cannot be read, a fault in M-mode firmware. Causes 4 and 5 come from a command and a function's reset alone. -/
def State.killDue (s : State) (bay : BayNo) (t : TaskId) (cause : Byte) : Bool :=
  let b := s.bay bay
  match cause.toNat with
  | 1 => b.hung && b.hangOnce
  | 2 => s.saveExpired bay t
  | 3 => match s.toRestore bay with
    | some (_, x, v) => !containerOk (s.containerHead x v) (s.containerDir x v) (bayKind bay)
    | none => false
  | 6 => b.gen.mfault
  | _ => false

/-- CONTEXT_KILL (R392, R393): the yard kills a context for a cause that has come about in a bay that runs its task. -/
def execContextKill (ctx : CtxNo) (cause : Byte) (task : TaskId) (bay : BayNo) (s : State) : Out :=
  onBay s bay fun s =>
    if (s.bay bay).task == some task && (s.bay bay).ctx == ctx && s.killDue bay task cause then
      (if cause = 2 then s.expireSave bay task else s.killContext ctx cause task bay)
    else s

end Sys2Proof.Machine
end

