-- ==== Sys2Proof/Machine/Packets.lean ====
section
/-! DEFINITION. Submission queues, the packet reader and the command packets (R61 to R63, R368 to R376, R413, R414,
R422). A packet acts in submission queue State.curSq. -/
namespace Sys2Proof.Machine

/-! ### Levels and windows (R369, R370) -/

/-- The level whose packets are executed. -/
def Sq.top (x : Sq) : Level := x.levels.getLast?.getD {}
/-- Applies f to it. -/
def Sq.modTop (x : Sq) (f : Level → Level) : Sq := { x with levels := x.levels.dropLast ++ [f x.top] }
/-- Dwords of the ring. -/
def Sq.ringSize (x : Sq) : Nat := 2 ^ x.lsize.toNat
/-- Dwords that exist from the next packet of the executing level on (R370). -/
def Sq.left (x : Sq) : Nat :=
  match x.top.buf with
  | none => (x.tail.toNat + x.ringSize - x.top.pos % x.ringSize) % x.ringSize
  | some _ => x.top.len - x.top.pos

/-- The dword k after the next packet's first, read at its home (R370, R413). -/
def State.levelDword (s : State) (x : Sq) (k : Nat) : W32 :=
  BitVec.ofNat 32 (leNat (match x.top.buf with
    | none => Mem.readN s.host (x.rbase.toNat * 4096 + 4 * ((x.top.pos + k) % x.ringSize)) 4
    | some (b, off) => s.homeBytes x.ctx b (off + 4 * (x.top.pos + k)) 4))

/-- The executing level with its window filled up to n dwords, as far as they exist. -/
def State.fill (s : State) (x : Sq) (n : Nat) : Sq :=
  let have' := x.top.win.length
  x.modTop fun l =>
    { l with win := l.win ++ (List.range (min n x.left - have')).map fun k => s.levelDword x (have' + k) }

/-- A level past n dwords. -/
def Level.past (l : Level) (size n : Nat) : Level :=
  { l with pos := if l.buf.isNone then (l.pos + n) % size else l.pos + n, win := l.win.drop n }

/-- A packet of the executing level has finished, with every packet it entered: a loop counts it, and HEAD follows at
level 0 outside a loop (R369, R373). -/
def Sq.finished (x : Sq) : Sq :=
  let x1 := match x.loop with
    | none => x
    | some lp =>
      if lp.level + 1 ≠ x.levels.length then x
      else if 1 < lp.left then { x with loop := some { lp with left := lp.left - 1 } }
      else if lp.pass + 1 < lp.passes then
        ({ x with skip := 0, loop := some { lp with left := lp.count, pass := lp.pass + 1 } } : Sq).modTop fun l =>
          { l with pos := lp.start, win := [] }
      else { x with skip := 0, loop := none }
  if x1.levels.length = 1 ∧ x1.loop.isNone then { x1 with head := BitVec.ofNat 22 x1.top.pos } else x1

/-- Indirect buffers that have come to their end return (R371): the IND that entered one has then finished. -/
def Sq.settle : Nat → Sq → Sq
  | 0, x => x
  | n + 1, x =>
    if 1 < x.levels.length ∧ x.top.len ≤ x.top.pos then
      let lp := x.loop.filter fun l => l.level + 1 != x.levels.length
      Sq.settle n ({ x with levels := x.levels.dropLast, skip := 0, loop := lp } : Sq).finished
    else x

/-- Dwords of a packet, its header included (R62). -/
def pktLen : Instr → Nat
  | .nop n => 1 + n.toNat
  | .ind _ _ => 4
  | .launch _ _ _ | .wait _ _ _ | .signal _ _ _ _ => 5
  | .pred _ _ _ _ => 6
  | .write _ d => 3 + d.length
  | .dma _ _ _ => 7
  | .iflush _ => 2
  | _ => 1

/-- A packet of n dwords is done. -/
def Sq.passed (x : Sq) (n : Nat) : Sq :=
  Sq.settle 3 { (x.modTop fun l => l.past x.ringSize n).finished with waiting := false, image := none, bpPass := false }
/-- A packet of the current queue is done. -/
def State.packetDone (s : State) (i : Instr) : Out := .next (s.modSq s.curSq fun x => x.passed (pktLen i))
/-- The current queue stops at its packet (R375). -/
def State.packetStop (s : State) (stat : Byte) : Out := .next (s.stopQueue s.curSq stat 0)
/-- A packet that waits: it has begun, and is executed again. -/
def State.packetWait (s : State) : Out := .next (s.modSq s.curSq fun x => { x with waiting := true })

/-! ### Addresses (R371, R375, R422) -/

/-- The rights that a packet reader holds on a buffer (R422). -/
def readerRights (b : BufId) (f : Buf) : BitVec 4 :=
  if b = 0xFFFFFF ∨ b = 0xFFFFFC ∨ b = 0xFFFFFB ∨ b = 0xFFFFFA then 1
  else if f.host.isSome || f.imp.isSome then f.rights else 3

/-- Whether a packet address may be used for n bytes. -/
def State.pktAddr (s : State) (c : CtxNo) (a : PAddr) (n align : Nat) (need : BitVec 4) : Bool :=
  match s.buf? c a.buf with
  | none => false
  | some f =>
    decide (a.off.toNat + n ≤ f.size) && a.off.toNat % align == 0 && readerRights a.buf f &&& need == need &&
      !s.unreachable c a.buf

/-- The context of the current queue. -/
def State.sqCtx (s : State) : CtxNo := (s.sq s.curSq).ctx
/-- The 64-bit word at a packet address, read at its home. -/
def State.pktWord (s : State) (a : PAddr) : Word := BitVec.ofNat 64 (leNat (s.homeBytes s.sqCtx a.buf a.off.toNat 8))

/-- The comparison codes (R371). -/
def cmpHolds (cmp : BitVec 3) (w v : Word) : Bool :=
  match cmp.toNat with
  | 0 => w == v
  | 1 => w != v
  | 2 => w.ult v
  | 3 => !w.ult v
  | 4 => w.slt v
  | 5 => !w.slt v
  | _ => w &&& v != 0

/-! ### Packets (R371 to R374) -/

/-- NOP. -/
def execNop (ndw : BitVec 10) (s : State) : Out := s.packetDone (.nop ndw)

/-- The header of a graph image (R372), or the STAT with which the queue stops: the header and records must be
readable, and the header valid. -/
def State.launchHead (s : State) (c : CtxNo) (a : PAddr) : Except Byte (BitVec 512) :=
  if !s.pktAddr c a 64 64 1 then .error 2
  else
    let h : BitVec 512 := BitVec.ofNat 512 (leNat (s.homeBytes c a.buf a.off.toNat 64))
    let ntask := (h.extractLsb' 64 32).toNat
    let doneOk := match s.buf? c (h.extractLsb' 128 24) with
      | none => false
      | some f => f.host.isNone && decide ((h.extractLsb' 160 48).toNat + 8 ≤ f.size)
    if h.extractLsb' 0 64 ≠ 0x004000014947575A ∨ ntask = 0 ∨ 65536 < ntask ∨ (h.getLsbD 96 ∧ doneOk = false) then .error 3
    else if !s.pktAddr c a (64 + 64 * ntask) 64 1 then .error 2
    else .ok h

/-- The records of an image. -/
def State.imageRecords (s : State) (c : CtxNo) (a : PAddr) (ntask : Nat) : List TaskRecord :=
  (List.range ntask).map fun i => BitVec.ofNat 512 (leNat (s.homeBytes c a.buf (a.off.toNat + 64 + 64 * i) 64))

/-- A record whose ARG5 takes the pass index, unless it carries a capability (R372). -/
def withPass (pass : Nat) (r : TaskRecord) : TaskRecord :=
  if (recCapm r).getLsbD 5 then r else BitVec.ofNat 64 pass ++ r.extractLsb' 0 448

/-- Judges every record of an image, in order. -/
def State.judgeAll (s : State) (c : CtxNo) (ntask : Nat) :
    List TaskRecord → Except PlaceErr (List (TaskRecord × CodeRef × BitVec 2 × Bool))
  | [] => .ok []
  | r :: t =>
    match s.judgeRecord c ntask r with
    | .error e => .error e
    | .ok j =>
      match s.judgeAll c ntask t with
      | .error e => .error e
      | .ok l => .ok ((r, j) :: l)

/-- Places judged records in slots from n on. -/
def State.placeAll (s : State) (c : CtxNo) (g : BitVec 12) (gbase : BitVec 16) :
    Nat → List (TaskRecord × CodeRef × BitVec 2 × Bool) → State
  | _, [] => s
  | n, (r, j) :: t => (s.placeTask c (BitVec.ofNat 16 n) g gbase r j).placeAll c g gbase (n + 1) t

/-- The STAT of a record that cannot be placed (R375, R407). -/
def PlaceErr.stat : PlaceErr → Byte
  | .malformed => 3
  | .remote => 2
  | .code => 4
  | .absent => 5
  | .cap => 8

/-- The lines of a shed cache after an acquire of whole buffers, class 15 included (R204, R372). -/
def State.acquireBufs (s : State) (c : CtxNo) (bs : List BufId) (m : Tab Line) : Tab Line :=
  let hit (key : Nat) : Bool := keyCtx key == c && bs.contains (keyBuf key)
  (m.filter fun e => !(hit e.1 && e.2.dirty == 0)).map fun e =>
    if hit e.1 then (e.1, e.2.refresh (s.homeBytes c (keyBuf e.1) (keyOff e.1) 64)) else e

/-- The header and records of a LAUNCH's image, read and checked once, before it waits (R372); that the records are read with
the header, as R376 has them read before its breakpoints are judged, is log 73. -/
def State.launchImage (s : State) (x : Sq) (a : PAddr) : Except Byte (BitVec 512 × List TaskRecord) :=
  match x.image with
  | some m => .ok m
  | none =>
    match s.launchHead x.ctx a with
    | .error e => .error e
    | .ok h => .ok (h, s.imageRecords x.ctx a (h.extractLsb' 64 32).toNat)

/-- A LAUNCH that waits keeps the image it has read. -/
def State.launchWait (s : State) (m : BitVec 512 × List TaskRecord) : Out :=
  .next (s.modSq s.curSq fun x => { x with waiting := true, image := some m })

/-- LAUNCH (R372). -/
def execLaunch (lix : BitVec 1) (a : PAddr) (tag : W32) (s : State) : Out :=
  let x := s.sq s.curSq
  let c := x.ctx
  match s.launchImage x a with
  | .error e => s.packetStop e
  | .ok (h, image) =>
    let ntask := (h.extractLsb' 64 32).toNat
    match lowestRun s.slotRuns Config.taskSlots ntask,
        lowestRun (s.yard.graphs.map fun e => (e.1, 1)) Config.graphSlots 1 with
    | some b, some g =>
      if (s.ctx c).qslot.toNat < s.resident c + ntask then s.launchWait (h, image)
      else
        let rs := match x.loop with
          | some lp => if lix = 1 then image.map (withPass lp.pass) else image
          | none => image
        let bufs := rs.map fun r => entryBuf (s.codeEntry c (recCode r))
        let s1 : State := { s with sheds := s.sheds.map fun e => (e.1, { e.2 with cache := s.acquireBufs c bufs e.2.cache }) }
        match s1.judgeAll c ntask rs with
        | .error e => s1.packetStop e.stat
        | .ok js =>
          let gr : Graph := { ntask := ntask, ctx := c, den := h.getLsbD 96, dbuf := h.extractLsb' 128 24,
                              doff := (h.extractLsb' 160 48).toNat, sq := s.curSq }
          let s2 := s1.modYard fun y => { y with graphs := y.graphs.put g gr }
          (s2.placeAll c (BitVec.ofNat 12 g) (BitVec.ofNat 16 b) b js).packetDone (.launch lix a tag)
    | _, _ => s.launchWait (h, image)

/-- IND (R371). -/
def execInd (a : PAddr) (len : BitVec 20) (s : State) : Out :=
  let x := s.sq s.curSq
  if 3 ≤ x.levels.length then s.packetStop 1
  else if !s.pktAddr x.ctx a (4 * len.toNat) 4 1 then s.packetStop 2
  else .next (s.modSq s.curSq fun x =>
    let y := x.modTop fun l => l.past x.ringSize 4
    { y with levels := y.levels ++ [{ buf := some (a.buf, a.off.toNat), len := len.toNat }], waiting := false,
             bpPass := false })

/-- PRED (R371). -/
def execPred (cmp : BitVec 3) (a : PAddr) (val : Word) (skip : BitVec 10) (s : State) : Out :=
  if !s.pktAddr s.sqCtx a 8 8 1 then s.packetStop 2
  else if cmpHolds cmp (s.pktWord a) val then s.packetDone (.pred cmp a val skip)
  else (s.modSq s.curSq fun x => { x with skip := skip.toNat }).packetDone (.pred cmp a val skip)

/-- Whether n packets from dword k on lie within the executing level. -/
def State.bodyFits (s : State) (x : Sq) : Nat → Nat → Bool
  | 0, k => decide (k ≤ x.left)
  | n + 1, k =>
    if x.left ≤ k then false
    else s.bodyFits x n (k + 1 + (field ((x.top.win[k]?).getD (s.levelDword x k)) 16 10).toNat)

/-- LOOP (R373): a LOOP in a loop body, and one whose body would pass the end of an indirect buffer, is a bad packet. -/
def execLoop (rep1 body1 : BitVec 8) (s : State) : Out :=
  let x := s.sq s.curSq
  if x.loop.isSome || (x.top.buf.isSome && !s.bodyFits x (body1.toNat + 1) 1) then s.packetStop 1
  else .next (s.modSq s.curSq fun x =>
    let y := x.modTop fun l => l.past x.ringSize 1
    { y with loop := some { level := y.levels.length - 1, start := y.top.pos, count := body1.toNat + 1,
                            left := body1.toNat + 1, passes := rep1.toNat + 1, pass := 0 },
             waiting := false, bpPass := false })

/-- FFENCE (R371): the writes of packets before it are performed when they end; every window is emptied. -/
def execFfence (s : State) : Out :=
  .next (s.modSq s.curSq fun x =>
    let y := x.passed 1
    { y with levels := y.levels.map fun l => { l with win := [] } })

/-- WRITE (R371). -/
def execWrite (a : PAddr) (data : List W32) (s : State) : Out :=
  if !s.pktAddr s.sqCtx a (4 * data.length) 4 2 then s.packetStop 2
  else (s.homeStore s.sqCtx a.buf a.off.toNat (data.flatMap fun d => leBytes d.toNat 4)).packetDone (.write a data)

/-- WAIT (R371): the reader's own reads are at the home, so its acquire leaves nothing to drop. -/
def execWait (cmp : BitVec 3) (a : PAddr) (val : Word) (s : State) : Out :=
  if !s.pktAddr s.sqCtx a 8 8 1 then s.packetStop 2
  else if cmpHolds cmp (s.pktWord a) val then s.packetDone (.wait cmp a val)
  else s.packetWait

/-- What SIGNAL stores (R371). -/
def signalValue (op : BitVec 2) (old val : Nat) : Nat :=
  match op.toNat with
  | 0 => val
  | 1 => (old + val) % 2 ^ 64
  | _ => max old val

/-- SIGNAL (R371, R414). The right W is enough for OP 1 and 2, which read their word to change it (DESIGN CHOICE, log 73). -/
def execSignal (op : BitVec 2) (waitg : BitVec 1) (a : PAddr) (val : Word) (s : State) : Out :=
  let c := s.sqCtx
  if !s.pktAddr c a 8 8 2 || (op != 0 && s.isHost c a.buf) then s.packetStop 2
  else if waitg = 1 ∧ (s.yard.graphs.any fun e => e.2.sq == s.curSq) then s.packetWait
  else (s.atomic c a.buf a.off.toNat 8 fun old => signalValue op old val.toNat).2.packetDone
    (.signal op waitg a val)

/-- DMA (R371). The whole source is read before the first byte is written, also where the two overlap (DESIGN CHOICE,
log 73). -/
def execDma (src dst : PAddr) (count : W32) (s : State) : Out :=
  let c := s.sqCtx
  if !s.pktAddr c src count.toNat 4 1 || !s.pktAddr c dst count.toNat 4 2 then s.packetStop 2
  else (s.homeStore c dst.buf dst.off.toNat (s.homeBytes c src.buf src.off.toNat count.toNat)).packetDone
    (.dma src dst count)

/-- Writes back and drops every line of a buffer in one shed cache. -/
def State.dropShedBuf (s : State) (shed : BitVec 4) (c : CtxNo) (b : BufId) : State :=
  ((s.shed shed).cache.filter fun e => keyOf c b e.1).foldl (fun s e => s.dropLine shed e.1) s

/-- IFLUSH (R374). -/
def execIflush (buf : BufId) (s : State) : Out :=
  let c := s.sqCtx
  if (s.buf? c buf).isNone then s.packetStop 2
  else
    let s1 := (List.range 16).foldl (fun s n => s.dropShedBuf (BitVec.ofNat 4 n) c buf) s
    ({ s1 with bays := s1.bays.map fun e => (e.1, { e.2 with icache := e.2.icache.filter fun l => !keyOf c buf l.1 }) } :
      State).packetDone (.iflush buf)

/-! ### The packet reader (R63, R369 to R376) -/

/-- Whether a header's OP and NDW are in the table of R62. -/
def headerOk (h : W32) : Bool :=
  let n := (field h 16 10).toNat
  match (field h 26 6).toNat with
  | 0 => true
  | 1 | 7 | 8 => n == 4
  | 2 => n == 3
  | 3 => n == 5
  | 4 | 5 => n == 0
  | 6 => decide (3 ≤ n)
  | 9 => n == 6
  | 10 => n == 1
  | _ => false

/-- Whether a packet is bad where it stands (R373). -/
def State.badHere (s : State) (x : Sq) (i : Instr) : Bool :=
  match i with
  | .ind _ _ => decide (3 ≤ x.levels.length)
  | .loop _ body1 => x.loop.isSome || (x.top.buf.isSome && !s.bodyFits x (body1.toNat + 1) 1)
  | _ => false

/-- Whether a packet breakpoint matches (R376, R398). One is judged against a LAUNCH once its records have been read, so an
image that cannot be read, or is invalid, stops the queue with its own cause instead. -/
def State.breakHits (s : State) (q : BitVec 6) (c : CtxNo) (i : Instr) (bp : BitVec 128) : Bool :=
  bp.getLsbD 127 && (!bp.getLsbD 126 || bp.extractLsb' 64 6 == q) &&
    match i with
    | .launch _ a _ =>
      match s.launchHead c a with
      | .error _ => false
      | .ok h => !bp.getLsbD 125 || (s.imageRecords c a (h.extractLsb' 64 32).toNat).any fun r =>
          entryBuf (s.codeEntry c (recCode r)) == bp.extractLsb' 0 24
    | _ => !bp.getLsbD 125

/-- The breakpoint that matches a packet, the one of lowest number where several do (DESIGN CHOICE, log 73). -/
def State.breakOf (s : State) (q : BitVec 6) (c : CtxNo) (i : Instr) : Option Nat :=
  s.yard.dbg.pbp.findIdx? (s.breakHits q c i)

/-- What a queue's turn comes to: no packet executes, or one does, its dwords fetched. -/
inductive Turn where
  | stay (s : State)
  | run (i : Instr) (s : State)

/-- A queue's turn: the window is filled, the next packet decoded and judged; one that a PRED skips is stepped over. A packet
begins and takes effect in one step, so a dword that stands 64 or more past the packet's first but no more than 64 past its last
one, which may be read before its effect (R370), is read after it (DESIGN CHOICE, log 72). Packet breakpoints are not judged
against a packet that a PRED skips (DESIGN CHOICE, log 73). -/
def State.turn (s : State) (q : BitVec 6) : Turn :=
  let x := s.sq q
  if !x.en || x.stat != 0 || x.left == 0 then .stay s
  else if x.halt && !x.waiting then .stay (s.stopQueue q 6 0)
  else if (match x.top.buf with
      | some (b, _) => s.unreachable x.ctx b
      | none => false) then .stay (s.stopQueue q 2 0)
  else
    let x1 := s.fill x 64
    let h := x1.top.win.getD 0 0
    let n := 1 + (field h 16 10).toNat
    let x2 := s.fill x1 n
    let s1 := s.modSq q fun _ => x2
    if !headerOk h then .stay (s1.stopQueue q 1 0)
    else if x2.left < n then .stay (if x.top.buf.isSome then s1.stopQueue q 1 0 else s1)
    else match decodePacket h ((x2.top.win.drop 1).take (n - 1)) with
    | .error _ => .stay (s1.stopQueue q 1 0)
    | .ok i =>
      if s.badHere x2 i then .stay (s1.stopQueue q 1 0)
      else if x.skip ≠ 0 then .stay (s1.modSq q fun x => ({ x with skip := x.skip - 1 } : Sq).passed n)
      else match (if x.waiting || x.bpPass then none else s.breakOf q x.ctx i) with
      | some k => .stay (s1.stopQueue q 7 (BitVec.ofNat 2 k))
      | none => .run i { s1.modSq q fun x => { x with waiting := true } with curSq := q }

/-- PACKET_FETCH (R370): n more dwords of the executing level, no further than 64 behind the dwords that have begun. -/
def execPacketFetch (q : BitVec 6) (n : BitVec 7) (s : State) : Out :=
  let x := s.sq q
  if !x.en || x.stat != 0 then .next s
  else
    let begun := if x.waiting then 1 + (field (x.top.win.getD 0 0) 16 10).toNat else 0
    .next (s.modSq q fun _ => s.fill x (max x.top.win.length (min (begun + 64) (x.top.win.length + n.toNat))))

/-- WAIT_REREAD (R371): a WAIT that holds its queue reads its word again. -/
def execWaitReread (q : BitVec 6) (s : State) : Out :=
  if !(s.sq q).waiting then .next s
  else match s.turn q with
  | .run (.wait cmp a val) s1 => execWait cmp a val s1
  | .run _ _ => .next s
  | .stay _ => .next s

/-! ### Queue registers (R368, R375) -/

/-- DOORBELL (R368): a TAIL of 2^LSIZE or more is discarded. -/
def execDoorbell (q : BitVec 6) (tail : BitVec 22) (s : State) : Out :=
  .next (s.modSq q fun x => if tail.toNat < x.ringSize then { x with tail := tail } else x)

/-- A queue after RESET (R368). -/
def Sq.resetSq (x : Sq) : Sq :=
  { x with head := 0, tail := 0, stat := 0, bpn := 0, levels := [{}], skip := 0, loop := none, waiting := false,
           image := none, bpPass := false }

/-- SQ_RESET (R368). -/
def execSqReset (q : BitVec 6) (s : State) : Out := .next (s.modSq q Sq.resetSq)

/-- HALT written as 1: a queue that stands before a packet stops there; one whose packet waits, after it. -/
def State.haltOn (s : State) (q : BitVec 6) : State :=
  let s1 := s.modSq q fun x => { x with halt := true }
  let x := s.sq q
  if x.en && x.stat == 0 && !x.waiting && x.left != 0 then s1.stopQueue q 6 0 else s1
/-- HALT written as 0: the packet at which a breakpoint stopped the queue then executes once (R376). -/
def Sq.haltOff (x : Sq) : Sq :=
  if x.stat = 6 ∨ x.stat = 7 then { x with halt := false, stat := 0, bpn := 0, bpPass := x.stat == 7 }
  else { x with halt := false }

/-- HALT (R368, R375). -/
def execHalt (q : BitVec 6) (s : State) : Out := .next (s.haltOn q)

/-- HALT_CLEAR (R375, R376). -/
def execHaltClear (q : BitVec 6) (s : State) : Out := .next (s.modSq q Sq.haltOff)

/-- EN (R368). -/
def execEn (q : BitVec 6) (v : BitVec 1) (s : State) : Out := .next (s.modSq q fun x => { x with en := v == 1 })

end Sys2Proof.Machine
end

