-- ==== Sys2Proof/Machine/System.lean ====
section
/-! DEFINITION. BAY.RESUME, BAY.FLUSH and QSTAT, the word-fault interrupt, the yard's commands, the host's registers,
debug, links, boot, throttle and the passing of time (R377, R381 to R384, R394 to R412). -/
namespace Sys2Proof.Machine

/-! ### Word faults: resume, flush, status (R381 to R384) -/

/-- WORD_FAULT_INTERRUPT (R377): taken at the next instruction boundary, which an instruction at the yard delays. -/
def execWordFaultInterrupt (bay : BayNo) (s : State) : Out :=
  onBay s bay fun s => s.modBay bay fun b =>
    let busy := match b.gen.wait with
      | some (.yard _ _) => true
      | _ => false
    if b.task.isNone || b.debugStop || b.saving || busy || b.interrupt? != some 16 then b
    else b.modGen fun g => g.takeInterrupt 16

/-- Whether an entry is the word that the held fault names. -/
def WordFault.names (w : WordFault) (e : Entry) : Bool := e.kind == .word && e.eseq == w.eseq && e.off == w.off && e.w == w.word

/-- Which executing copy of a queue the held fault names. -/
def Bay.faultCopy (b : Bay) (q : BitVec 1) : Option Nat := (b.cp q).jobs.findIdx? fun j => b.wf.names j.ent

/-- The faulting word is skipped (R381): it completes at its UPC without any merge. -/
def Bay.skipFault (b : Bay) : Bay :=
  let q := b.wf.qid.toNat
  let atHead := ((b.head? q).map b.wf.names) == some true
  match q with
  | 0 =>
    if (b.mx.port.map fun j => b.wf.names j.ent) == some true then { b with mx := { b.mx with port := none } }
    else match b.mx.arrays.findIdx? fun j => b.wf.names j.ent with
    | some k => { b with mx := b.mx.dropArray k }
    | none => if atHead then b.leave 0 else b
  | 1 =>
    if b.vx.stopped.isSome then { b with vx := { b.vx with stopped := none } }
    else if atHead then b.leave 1 else b
  | 2 =>
    match b.faultCopy 0 with
    | some k => b.cpSkip 0 k
    | none => if atHead then b.leave 2 else b
  | 3 =>
    match b.faultCopy 1 with
    | some k => b.cpSkip 1 k
    | none => if atHead then b.leave 3 else b
  | _ =>
    if (b.kx.job.map fun j => b.wf.names j.ent) == some true then b.kxSkip
    else if atHead then b.leave q else b

/-- The hazard that BAY.RESUME answers is past; one that was not recorded is still to be raised (R281, R282, R381). -/
def Bay.freeVx (b : Bay) : Bay :=
  if b.wf.qid = 1 then { b with vx := { b.vx with stopped := b.vx.stopped.map fun j => { j with due := none } } } else b

/-- BAY_RESUME (R381): every vector write in flight has landed by then (R282). -/
def execBayResume (s : State) : Out :=
  let b := s.bay s.cur
  if b.gen.mode = 0 then onCur s fun b => b.illegal (instrWord .bayResume)
  else if !b.wf.valid || 1 < b.wf.act.toNat then onCur s fun b => b.fault cOperand 0
  else onCur (s.landBay s.cur) fun b =>
    let b1 := if b.wf.act = 1 then b.skipFault else b
    ({ b1.freeVx with wf := { b1.wf with act := 0, valid := false }, mx := b1.mx.resumed } : Bay).retire

/-- Whether an entry is a joined sync word (R189). -/
def joinedEntry (e : Entry) : Bool :=
  e.kind == .word && wordE e.w == 0 && (let op := (field e.w 24 5).toNat
    op == 2 || op == 4 || op == 6)

/-- A queue without its words; free markers and notifies keep their places. -/
def Queue.flush (q : Queue) : Queue :=
  { q with wait := q.wait.filter fun e => e.kind != .word, ent := q.ent.filter fun e => e.kind != .word }
/-- A queue without the words of given acceptance numbers. -/
def Queue.without (q : Queue) (ns : List Nat) : Queue :=
  { q with wait := q.wait.filter fun e => !(e.kind == .word && ns.contains e.seqNo),
           ent := q.ent.filter fun e => !(e.kind == .word && ns.contains e.seqNo) }

/-- The queues after a flush of a mask (R382): a joined word loses every copy. -/
def Bay.flushQueues (b : Bay) (m : BitVec 5) : Bay :=
  let gone := [0, 1, 2, 3, 4].flatMap fun q =>
    if m.getLsbD q then (((b.queue q).wait ++ (b.queue q).ent).filter joinedEntry).map Entry.seqNo else []
  [0, 1, 2, 3, 4].foldl (fun b q => b.modQueue q fun v => if m.getLsbD q then v.flush else v.without gone) b

/-- Whether the k-th executing copy of a queue stands at a fault that its next row meets. -/
def State.cpAtFault (s : State) (b : BayNo) (q : BitVec 1) (k : Nat) : Bool :=
  match ((s.bay b).cp q).jobs[k]? with
  | some j => s.cpMoves b q k j && (s.rowFault b j).isSome
  | none => false

/-- Whether the k-th executing copy of a queue stands stopped while a word fault is held (R310, R380): it is the faulting word,
or rows of it are left and it, or a copy ahead of it, is the faulting word or stands at a fault that was not recorded. Every
other copy runs on to its end. -/
def State.cpStopped (s : State) (b : BayNo) (q : BitVec 1) (k : Nat) : Bool :=
  let y := s.bay b
  let jobs := (y.cp q).jobs
  match jobs[k]? with
  | none => false
  | some j => y.heldCopy q j || (!y.cpRowsDone j &&
      ((jobs.take k).any (y.heldCopy q) || (List.range (k + 1)).any (s.cpAtFault b q)))

/-- The copies of a queue without those that stand stopped, which are discarded as if skipped (R382). -/
def State.flushCopies (s : State) (bn : BayNo) (q : BitVec 1) : State :=
  s.modBay bn fun b => ([3, 2, 1, 0].filter (s.cpStopped bn q)).foldl (fun b k => b.cpSkip q k) b

/-- The stopped words of the engines of a mask are discarded (R382). Vector, matrix and class-engine words have run to the
stop that the held fault brings (R244, R282, R332), and what copies have sent has arrived, so that nothing of a discarded word
is on its way (R188). -/
def State.flushEngines (s : State) (bn : BayNo) (m : BitVec 5) : State :=
  let s1 := s.stopWords bn
  let s2 := if m.getLsbD 2 then s1.flushCopies bn 0 else s1
  let s3 := if m.getLsbD 3 then s2.flushCopies bn 1 else s2
  s3.modBay bn fun b =>
    let b1 := if m.getLsbD 0 then { b with mx := { b.mx with arrays := [], port := none } } else b
    let b2 := if m.getLsbD 1 then { b1 with vx := { b1.vx with stopped := none } } else b1
    if m.getLsbD 4 then b2.kxSkip else b2

/-- BAY_FLUSH (R382). -/
def execBayFlush (rs1 : Reg) (s : State) : Out :=
  let b := s.bay s.cur
  let v := b.gen.rd rs1
  if b.gen.mode = 0 then onCur s fun b => b.illegal (instrWord (.bayFlush rs1))
  else if v.toNat / 2 ^ 5 ≠ 0 ∨ !b.wf.valid then onCur s fun b => b.fault cOperand v
  else onCur (s.flushEngines s.cur (v.setWidth 5)) fun b => (b.flushQueues (v.setWidth 5)).retire

/-- The entry whose prefixes QSTAT item 4 gives: the faulting word's while its queue holds the fault, else the head. -/
def Bay.statusEntry (b : Bay) (q : Nat) : Option Entry :=
  let all := (b.mx.arrays.map MxJob.ent) ++ (b.mx.port.map MxJob.ent).toList ++ (b.vx.stopped.map VxJob.ent).toList ++
    (b.cpIn.jobs.map CpJob.ent) ++ (b.cpOut.jobs.map CpJob.ent) ++ (b.kx.job.map KxJob.ent).toList
  match (if b.wf.valid && b.wf.qid.toNat == q then all.find? b.wf.names else none) with
  | some e => some e
  | none => b.head? q

/-- One item of a queue's status (R383). -/
def Bay.qstat (b : Bay) (q item : Nat) : Word :=
  let v := b.queue q
  match item with
  | 0 => BitVec.ofNat 64 (2 ^ 63 + (if b.halted || b.saving then 2 ^ 62 else 0) +
      (if b.wf.valid && b.wf.qid.toNat == q then 2 ^ 61 else 0) + v.ent.length * 2 ^ 52 + v.wait.length * 2 ^ 48 +
      v.issued.toNat)
  | 1 => if q = 2 then b.cpIn.bytes else if q = 3 then b.cpOut.bytes else 0
  | 2 => if q = 2 then b.cpIn.last else if q = 3 then b.cpOut.last else 0
  | 3 => v.noff ++ v.ntok.setWidth 32
  | _ =>
    match b.statusEntry q with
    | some e => e.pfx.getD 1 0 ++ e.pfx.getD 0 0
    | none => 0

/-- QSTAT (R383). -/
def execQstat (rd rs1 : Reg) (s : State) : Out :=
  onCur s fun b =>
    let v := b.gen.rd rs1
    let q := (v.extractLsb' 0 3).toNat
    let item := (v.extractLsb' 8 3).toNat
    if b.gen.mode = 0 then b.illegal (instrWord (.qstat rd rs1))
    else if v.extractLsb' 3 5 ≠ 0 ∨ v.toNat / 2 ^ 11 ≠ 0 ∨ 4 < q ∨ 4 < item then b.fault cOperand v
    else b.retireWith rd (if queueExists (bayKind s.cur) q then b.qstat q item else 0)

/-! ### Yard commands (R394 to R396) -/

/-- Whether the command block accepts a command: not while BUSY, and not before the package is ready (R16, R408); in
recovery mode only ATTEST and LOADFW (R396, R409; log 55). -/
def State.accepts (s : State) (op : Nat) : Bool :=
  !s.yard.cmd.busy && (if s.boot.recov then op == 9 || op == 10 else s.boot.done)

/-- Runs a command that the host wrote into the command block, which may discard it; f gives STATUS, the result and the
effect, and the end follows by COMMAND_COMPLETION (R396). -/
def State.command (s : State) (op : Nat) (c : CtxNo) (f : State → Byte × BitVec 24 × State) : State :=
  if !s.accepts op then s
  else
    let r := f s
    r.2.2.modYard fun y =>
      { y with cmd := { y.cmd with cmd := BitVec.ofNat 64 (op + 256 * c.toNat), busy := true, code := 0, result := 0,
                                   pend := some (r.1, r.2.1) } }

/-- Writes the arguments, which BUSY discards too. -/
def State.setArgs (s : State) (a0 a1 a2 : Word) : State :=
  if s.yard.cmd.busy then s
  else s.modYard fun y => { y with cmd := { y.cmd with arg0 := a0, arg1 := a1, arg2 := a2 } }

/-- Draws n free values (log 3). -/
def State.draws (s : State) : Nat → List Word × State
  | 0 => ([], s)
  | n + 1 =>
    let f := s.draw
    let r := f.2.draws n
    (f.1 :: r.1, r.2)

/-- The buffers that CREATE makes (R395); SVMIB 0 gives no save area. -/
def systemBufs (x : Ctx) : List (BufId × Nat) :=
  [(0xFFFFFF, 4096), (0xFFFFFE, 768 * 1024), (0xFFFFFD, 64 * 1024), (0xFFFFFC, 32 * 2 ^ x.evlg.toNat),
   (0xFFFFFB, 256 * 2 ^ x.trlg.toNat * 1024)] ++
    (if x.svmib = 0 then [] else [(0xFFFFFA, x.svmib.toNat * 2 ^ 20)]) ++ [(0xFFFFF9, x.rtkib.toNat * 1024)]

/-- CREATE (R396): the system buffers read zero (log 6). A TRLG outside 2 to 16 or an EVLG outside 6 to 16 is taken as it is
written, and gives a region of 2^TRLG KiB or a ring of 2^EVLG records (R394; DESIGN CHOICE, log 73). -/
def State.create (c : CtxNo) (s : State) : Byte × BitVec 24 × State :=
  let x := s.ctx c
  let bufs := systemBufs x
  if x.valid then (4, 0, s)
  else if x.rtkib.toNat < 4 then (2, 0, s)
  else
    let hk := s.draw
    let xts := hk.2.draws 8
    let s1 := xts.2.modCtx c fun x => { x with valid := true, hk := hk.1, xts := xts.1, incs := 0 }
    let zero (a : Nat) : Bool := bufs.any fun e =>
      let base := memKey s.die.pkg.toNat c.toNat e.1.toNat 0
      decide (base ≤ a) && decide (a < base + 2 ^ 48)
    let s2 : State := { s1 with mem := Mem.clear s1.mem zero }
    let r := bufs.foldl (fun (r : Bool × State) e =>
      if e.1 != 0xFFFFFF && !r.2.framesFree { size := e.2 } then (false, r.2)
      else (r.1, r.2.createBuf c e.1 { size := e.2 })) (true, s2)
    if r.1 then (0, 0, r.2) else (3, 0, s)

/-- Retires every buffer of a context; the lofts drop its lines (R186). -/
def State.retireAll (s : State) (c : CtxNo) : State := (s.bufsOf c).foldl (fun s e => s.retireBuf c e.1) s

/-- A kill of cause 4 or 5: no bay raised it, so the record's BAY is a free value (log 3). -/
def State.killBy (s : State) (c : CtxNo) (cause : Byte) : State :=
  let f := s.draw
  f.2.killContext c cause 0xFFFF (f.1.extractLsb' 0 8)

/-- DESTROY (R396). -/
def State.destroy (c : CtxNo) (s : State) : Byte × BitVec 24 × State :=
  if !(s.ctx c).valid then (4, 0, s)
  else
    let s1 := if s.resident c = 0 then s else s.killBy c 4
    (0, 0, (s1.retireAll c).modCtx c fun x => { x with valid := false })

/-- KILL (R396). -/
def State.kill (c : CtxNo) (s : State) : Byte × BitVec 24 × State :=
  if !(s.ctx c).valid then (4, 0, s) else (0, 0, s.killBy c 4)

/-- Whether a grant names an object of the package: a barrier of 32 or a ring of 8 of a live shed. -/
def State.grantOk (s : State) (shed : BitVec 4) (ring : BitVec 1) (idx : BitVec 5) : Bool :=
  s.shedUp shed && (ring == 0 || decide (idx.toNat < 8))
/-- OWNER of a shed object. -/
def State.ownerOf (s : State) (shed : BitVec 4) (ring : BitVec 1) (idx : BitVec 5) : Option CtxNo :=
  if ring = 0 then (Tab.get {} (s.shed shed).bars idx.toNat : Barrier).owner
  else (Tab.get {} (s.shed shed).rings idx.toNat : Ring).owner

/-- GRANT (R396, R210): OWNER is set and the object is as at dispatch. -/
def State.grant (c : CtxNo) (shed : BitVec 4) (ring : BitVec 1) (idx : BitVec 5) (s : State) :
    Byte × BitVec 24 × State :=
  if !(s.ctx c).valid then (4, 0, s)
  else if !s.grantOk shed ring idx || (s.ownerOf shed ring idx).isSome then (2, 0, s)
  else (0, 0, s.modShed shed fun d =>
    if ring = 0 then { d with bars := d.bars.put idx.toNat { owner := some c } }
    else { d with rings := d.rings.put idx.toNat { owner := some c } })

/-- REVOKE (R396): OWNER becomes none. -/
def State.revoke (c : CtxNo) (shed : BitVec 4) (ring : BitVec 1) (idx : BitVec 5) (s : State) :
    Byte × BitVec 24 × State :=
  if !(s.ctx c).valid then (4, 0, s)
  else if !s.grantOk shed ring idx || s.ownerOf shed ring idx != some c then (2, 0, s)
  else (0, 0, s.modShed shed fun d =>
    if ring = 0 then { d with bars := Tab.mod {} d.bars idx.toNat fun v => { v with owner := none } }
    else { d with rings := Tab.mod {} d.rings idx.toNat fun v => { v with owner := none } })

/-- HOSTBUF (R396, R166). -/
def State.hostbuf (c : CtxNo) (bus size : Word) (rights : BitVec 4) (s : State) : Byte × BitVec 24 × State :=
  if !(s.ctx c).valid then (4, 0, s)
  else if bus.toNat % 4096 ≠ 0 ∨ size = 0 ∨ 2 ^ 48 < size.toNat then (2, 0, s)
  else match s.freeBufId c with
  | none => (3, 0, s)
  | some id => (0, id, s.createBuf c id { size := size.toNat, host := some bus, rights := rights })

/-- IMPORT (R396, R406): the rights are no wider than any capability to the buffer may carry (R17, R395), and the runtime
area is no argument. A buffer of this package is looked up; of a peer's nothing is known here, so whether its
context has DOM, its size and its rights are free values (log 27). -/
def State.imprt (c : CtxNo) (pkg pctx : BitVec 6) (pbuf : BufId) (rights : BitVec 4) (s : State) :
    Byte × BitVec 24 × State :=
  if !(s.ctx c).valid then (4, 0, s)
  else if s.die.dsize.toNat ≤ pkg.toNat ∨ pbuf = runtimeBuf then (2, 0, s)
  else match s.freeBufId c with
  | none => (3, 0, s)
  | some id =>
    if pkg = s.die.pkg then
      match s.buf? pctx pbuf with
      | none => (2, 0, s)
      | some f =>
        if !(s.ctx pctx).valid || (s.ctx pctx).dom == 0 then (2, 0, s)
        else (0, id, s.createBuf c id
          { f with count := 1, byNew := false, rights := rights &&& f.rights &&& ~~~forbiddenRights pbuf,
                   imp := if f.host.isSome then none else some (f.imp.getD (pkg, pctx, pbuf)) })
    else
      let w := s.draw
      if w.1.getLsbD 63 then
        (0, id, w.2.createBuf c id
          { size := (w.1.extractLsb' 0 48).toNat + 1, imp := some (pkg, pctx, pbuf),
            rights := rights &&& w.1.extractLsb' 48 4 &&& ~~~forbiddenRights pbuf })
      else (2, 0, w.2)

/-- The lofts after a page has moved to other frames: at each loft that has a page of that index (R183, log 49). -/
def State.movePage (s : State) (c : CtxNo) (buf : BufId) (f : Buf) (page : Nat) : Tab Loft :=
  (List.range 8).foldl (fun l k =>
    if page < f.pagesAt k then
      Tab.mod {} l k fun d => { d with moved := d.moved.put (pageTag c buf page) (s.frames + 1) }
    else l) s.lofts

/-- REMAP (R185, R396): the page moves to other frames, and nothing else changes. -/
def State.remap (c : CtxNo) (buf : BufId) (page : Word) (s : State) : Byte × BitVec 24 × State :=
  if !(s.ctx c).valid then (4, 0, s)
  else match s.buf? c buf with
  | none => (2, 0, s)
  | some f =>
    if (List.range 8).all fun k => decide (f.pagesAt k ≤ page.toNat) then (2, 0, s)
    else (0, 0, { s with frames := s.frames + 1, lofts := s.movePage c buf f page.toNat })

/-- The report of R410 without its signature: nonce, measurement registers, discovery header, stepping and security
version (log 5). -/
def State.report (s : State) (nonce : List Byte) : List Byte :=
  nonce ++ (List.range 8).flatMap (fun k => leBytes (s.boot.measure.getD k 0).toNat 32) ++
    (List.range 64).map (fun k => s.disc.getD k 0) ++ [1] ++ leBytes s.boot.secver.toNat 4

/-- ATTEST (R410). -/
def State.attest (nonce report : Word) (s : State) : Byte × BitVec 24 × State :=
  let r := s.report (Mem.readN s.host nonce.toNat 32)
  (0, 0, { s with host := Mem.writeN s.host report.toNat (r ++ Config.mldsaSign (Config.sha3 r)) })

/-- The package after a reset: the die, the flash and fuses, FAILS, the last failing boot's cause and an image to boot from
stay; so does the world outside (R404, R409). -/
def State.packageReset (s : State) (fw : Option (List Byte)) : State :=
  { State.reset with
    die := s.die
    boot := { s.boot with done := false, fail := false, recov := false, reason := 0, measure := [], loadfw := fw }
    agenda := s.agenda, freeCtr := s.freeCtr, host := s.host, msix := s.msix, hostRead := s.hostRead }

/-- CREATE. -/
def execCreate (ctx : CtxNo) (s : State) : Out := .next (s.command 1 ctx (State.create ctx))
/-- DESTROY. -/
def execDestroy (ctx : CtxNo) (s : State) : Out := .next (s.command 2 ctx (State.destroy ctx))
/-- KILL. -/
def execKill (ctx : CtxNo) (s : State) : Out := .next (s.command 3 ctx (State.kill ctx))
/-- ARG0 of GRANT and REVOKE (R396). -/
def grantArg (shed : BitVec 4) (ring : BitVec 1) (idx : BitVec 5) : Word := zext (idx ++ ring ++ shed)
/-- GRANT. -/
def execGrant (ctx : CtxNo) (shed : BitVec 4) (ring : BitVec 1) (idx : BitVec 5) (s : State) : Out :=
  .next ((s.setArgs (grantArg shed ring idx) s.yard.cmd.arg1 s.yard.cmd.arg2).command 4 ctx
    (State.grant ctx shed ring idx))
/-- REVOKE. -/
def execRevoke (ctx : CtxNo) (shed : BitVec 4) (ring : BitVec 1) (idx : BitVec 5) (s : State) : Out :=
  .next ((s.setArgs (grantArg shed ring idx) s.yard.cmd.arg1 s.yard.cmd.arg2).command 5 ctx
    (State.revoke ctx shed ring idx))
/-- HOSTBUF. -/
def execHostbuf (ctx : CtxNo) (bus size : Word) (rights : BitVec 4) (s : State) : Out :=
  .next ((s.setArgs bus size (zext rights)).command 6 ctx (State.hostbuf ctx bus size rights))
/-- IMPORT. -/
def execImprt (ctx : CtxNo) (pkg pctx : BitVec 6) (pbuf : BufId) (rights : BitVec 4) (s : State) : Out :=
  .next ((s.setArgs (zext (pbuf ++ pctx ++ pkg)) (zext rights) s.yard.cmd.arg2).command 7 ctx
    (State.imprt ctx pkg pctx pbuf rights))
/-- REMAP. -/
def execRemap (ctx : CtxNo) (buf : BufId) (page : Word) (s : State) : Out :=
  .next ((s.setArgs (zext buf) page s.yard.cmd.arg2).command 8 ctx (State.remap ctx buf page))
/-- ATTEST. -/
def execAttest (nonce report : Word) (s : State) : Out :=
  .next ((s.setArgs nonce report s.yard.cmd.arg2).command 9 0 (State.attest nonce report))

/-- LOADFW (R409): in recovery mode the package resets, to boot once from the image in host memory; otherwise no such
command is accepted. -/
def State.loadFw (s : State) (addr len : Word) : State :=
  if s.yard.cmd.busy then s
  else if s.boot.recov then s.packageReset (some (Mem.readN s.host addr.toNat len.toNat))
  else s.command 10 0 fun s => (2, 0, s)

/-- LOADFW. -/
def execLoadfw (addr len : Word) (s : State) : Out :=
  .next ((s.setArgs addr len s.yard.cmd.arg2).loadFw addr len)

/-- COMMAND_COMPLETION (R396): STATUS, result and vector 1 in one step. -/
def execCommandCompletion (s : State) : Out :=
  match s.yard.cmd.pend with
  | none => .next s
  | some (st, res) =>
    .next ((s.modYard fun y =>
      { y with cmd := { y.cmd with busy := false, code := st, result := res, pend := none } }).interrupt 0 1)

/-! ### Debug (R398, R399, R401) -/

/-- A debug stop of the bays that satisfy p. -/
def State.debugStopWhere (s : State) (p : Bay → Bool) : State :=
  { s with bays := s.bays.map fun e => (e.1, if p e.2 then { e.2 with debugStop := true } else e.2) }

/-- DEBUG_STOP_BAY (R399). -/
def execDebugStopBay (bay : BayNo) (s : State) : Out :=
  onBay s bay fun s => s.modBay bay fun b => { b with debugStop := true }

/-- DEBUG_STOP_CONTEXT (R399). -/
def execDebugStopContext (ctx : CtxNo) (s : State) : Out :=
  .next (s.debugStopWhere fun b => b.task.isSome && b.ctx == ctx)

/-- A bay after a debug stop: mx.ldw reads again at its UPC (R260), and a hazard met on the way is raised now (R282). -/
def Bay.goOn (b : Bay) : Bay := { b with debugStop := false, mx := b.mx.resumed }

/-- Every stopped bay goes on; the vector writes in flight have landed by then (R282). -/
def State.debugGo (s : State) : State :=
  ((s.bays.filter fun e => e.2.debugStop).map fun e => BitVec.ofNat 8 e.1).foldl
    (fun s b => (s.landBay b).modBay b Bay.goOn) s

/-- DEBUG_RESTART (R399). -/
def execDebugRestart (s : State) : Out := .next s.debugGo

/-! ### Host registers (R368, R394, R396, R398, R404) -/

/-- Writes 64 bits of a wider register. -/
def put64 {w : Nat} (v : BitVec w) (k : Nat) (x : Word) : BitVec w :=
  BitVec.ofNat w (v.toNat - v.toNat / 2 ^ (64 * k) % 2 ^ 64 * 2 ^ (64 * k) + x.toNat * 2 ^ (64 * k))

/-- Writable bits of the debug block's registers (R398, R401). -/
def pbpMask : BitVec 128 := 0xE000000000000000_0000000000000000 ||| 0x3F_0000000000000000 ||| 0xFFFFFF
def cbpMask : BitVec 128 := 0xFFFFFFFF_00000000_00000000_FFFFFFFF
def wpMask : BitVec 256 :=
  BitVec.ofNat 256 (0x1F * 2 ^ 251 + 0x3FFFFFFF * 2 ^ 216 + (2 ^ 48 - 1) * 2 ^ 128 + (2 ^ 48 - 1))

/-- A write of the stop register (R399). CTX overlaps bits 8 and 9, so bit 14 decides which of the two forms a write
has (log 28). -/
def State.stopWrite (s : State) (v : Word) : State :=
  if v.getLsbD 14 then s.debugStopWhere fun b => b.task.isSome && b.ctx == v.extractLsb' 8 6
  else
    let s1 := if v.getLsbD 9 then s.debugGo else s
    let b : BayNo := v.extractLsb' 0 8
    if v.getLsbD 8 ∧ s.populated b then s1.modBay b fun b => { b with debugStop := true } else s1

/-- A write into the debug block at an offset (R398). -/
def State.debugWrite (s : State) (off : Nat) (v : Word) : State :=
  if off = 0x200 then s.stopWrite v
  else s.modYard fun y =>
    let d := y.dbg
    { y with dbg :=
        if off < 0x40 then
          { d with pbp := setAt 0 4 d.pbp (off / 16) (put64 (d.pbp.getD (off / 16) 0) (off % 16 / 8) v &&& pbpMask) }
        else if 0x100 ≤ off ∧ off < 0x200 then
          let n := (off - 0x100) / 16
          { d with cbp := setAt 0 16 d.cbp n (put64 (d.cbp.getD n 0) (off % 16 / 8) v &&& cbpMask) }
        else if off = 0x208 then { d with cutsel := v.extractLsb' 0 8 }
        else if 0x300 ≤ off ∧ off < 0x400 then
          let n := (off - 0x300) / 32
          { d with wp := setAt 0 8 d.wp n (put64 (d.wp.getD n 0) (off % 32 / 8) v &&& wpMask) }
        else d }

/-- A write into a context entry (R394). -/
def Ctx.write (x : Ctx) (off : Nat) (v : Word) : Ctx :=
  match off with
  | 0x00 =>
    let x1 := { x with pre := v.extractLsb' 62 1, tren := v.extractLsb' 61 1, urgm := v.extractLsb' 17 15 }
    if x.valid then x1 else { x1 with dom := v.extractLsb' 60 1, func := v.extractLsb' 54 6, qslot := v.extractLsb' 0 17 }
  | 0x08 =>
    if x.valid then x
    else { x with svmib := v.extractLsb' 48 16, trlg := v.extractLsb' 40 8, evlg := v.extractLsb' 32 8,
                  swlimit := v.extractLsb' 0 32 }
  | 0x18 => { x with evtail := v.extractLsb' 0 32 }
  | 0x28 => if x.valid then x else { x with rtkib := v.extractLsb' 48 16, rtvec := v.extractLsb' 2 30 }
  | 0x30 => { x with mquota := v.extractLsb' 0 32 }
  | _ => x

/-- A write of the control word of a queue (R368): LSIZE takes effect while EN = 0 and within 10 to 22. -/
def Sq.control (x : Sq) (v : Word) : Sq :=
  let x1 := if v.getLsbD 11 then x.resetSq else x
  let n : BitVec 5 := v.extractLsb' 0 5
  { x1 with lsize := if !x.en && decide (10 ≤ n.toNat) && decide (n.toNat ≤ 22) then n else x.lsize,
            urg := v.getLsbD 8, en := v.getLsbD 9 }

/-- A write into a queue's register block (R368). -/
def State.sqWrite (s : State) (q : BitVec 6) (off : Nat) (v : Word) : State :=
  match off with
  | 0x00 => s.modSq q fun x => if x.en then x else { x with rbase := v.extractLsb' 12 52 }
  | 0x08 =>
    let s1 := s.modSq q fun x => x.control v
    if v.getLsbD 10 then s1.haltOn q else s1.modSq q Sq.haltOff
  | 0x10 => s.modSq q fun x =>
      if (v.extractLsb' 0 22).toNat < x.ringSize then { x with tail := v.extractLsb' 0 22 } else x
  | _ => s

/-- A write of CMD (R396): an opcode that the table does not name is a bad argument. -/
def State.cmdWrite (s : State) (v : Word) : State :=
  let c : CtxNo := v.extractLsb' 8 6
  let k := s.yard.cmd
  let g : BitVec 4 × BitVec 1 × BitVec 5 := (k.arg0.extractLsb' 0 4, k.arg0.extractLsb' 4 1, k.arg0.extractLsb' 5 5)
  match (v.extractLsb' 0 8).toNat with
  | 1 => s.command 1 c (State.create c)
  | 2 => s.command 2 c (State.destroy c)
  | 3 => s.command 3 c (State.kill c)
  | 4 => s.command 4 c (State.grant c g.1 g.2.1 g.2.2)
  | 5 => s.command 5 c (State.revoke c g.1 g.2.1 g.2.2)
  | 6 => s.command 6 c (State.hostbuf c k.arg0 k.arg1 (k.arg2.extractLsb' 0 4))
  | 7 => s.command 7 c (State.imprt c (k.arg0.extractLsb' 0 6) (k.arg0.extractLsb' 6 6) (k.arg0.extractLsb' 12 24)
      (k.arg1.extractLsb' 0 4))
  | 8 => s.command 8 c (State.remap c (k.arg0.extractLsb' 0 24) k.arg1)
  | 9 => s.command 9 0 (State.attest k.arg0 k.arg1)
  | 10 => s.loadFw k.arg0 k.arg1
  | op => s.command op c fun s => (2, 0, s)

/-- A write into the command block (R396). -/
def State.cmdBlockWrite (s : State) (off : Nat) (v : Word) : State :=
  if s.yard.cmd.busy then s
  else if off = 0 then s.cmdWrite v
  else s.modYard fun y =>
    { y with cmd :=
        match off with
        | 0x10 => { y.cmd with arg0 := v }
        | 0x18 => { y.cmd with arg1 := v }
        | 0x20 => { y.cmd with arg2 := v }
        | 0x28 => { y.cmd with arg3 := v }
        | _ => y.cmd }

/-- The queue whose block an offset of BAR0 lies in. -/
def sqAt (off : Nat) : BitVec 6 := BitVec.ofNat 6 ((off - 0x10000) / 0x40)

/-- REGISTER_WRITE (R394, R404): a 64-bit write into a function's BAR0. A virtual function reaches its own queues. -/
def execRegisterWrite (fn : BitVec 6) (off : BitVec 17) (val : Word) (s : State) : Out :=
  let o := off.toNat
  .next (
    if 0x11000 ≤ o then s
    else if 0x10000 ≤ o then (if (s.sq (sqAt o)).func = fn then s.sqWrite (sqAt o) (o % 0x40) val else s)
    else if fn ≠ 0 then s
    else if o / 0x1000 = 1 then s.cmdBlockWrite (o % 0x1000) val
    else if o / 0x1000 = 2 then s.modCtx (BitVec.ofNat 6 (o % 0x1000 / 0x40)) fun x => x.write (o % 0x40) val
    else if o / 0x1000 = 3 then s.debugWrite (o % 0x1000) val
    else s)

/-- What a queue's register block reads (R368). -/
def Sq.read (x : Sq) (off : Nat) : Word :=
  match off with
  | 0x00 => x.rbase ++ 0#12
  | 0x08 => BitVec.ofNat 64 ((if x.halt then 2 ^ 10 else 0) + (if x.en then 2 ^ 9 else 0) + (if x.urg then 2 ^ 8 else 0) +
      x.lsize.toNat)
  | 0x10 => zext x.tail
  | 0x18 => zext x.head
  | 0x20 => zext (x.bpn ++ x.stat ++ x.soff ++ x.slev)
  | _ => 0

/-- What a context entry reads (R394). -/
def Ctx.read (x : Ctx) (off : Nat) : Word :=
  match off with
  | 0x00 => (if x.valid then 1#1 else 0#1) ++ x.pre ++ x.tren ++ x.dom ++ x.func ++ 0#22 ++ x.urgm ++ x.qslot
  | 0x08 => x.svmib ++ x.trlg ++ x.evlg ++ x.swlimit
  | 0x10 => zext x.evhead
  | 0x18 => zext x.evtail
  | 0x20 => x.evdrop
  | 0x28 => x.rtkib ++ 0#16 ++ x.rtvec ++ 0#2
  | 0x30 => zext x.mquota
  | 0x38 => zext x.mused
  | _ => 0

/-- BOOTST (R409). -/
def BootSt.word (b : BootSt) : Word :=
  zext (b.fails ++ b.reason ++ 0#1 ++ (if b.recov then 1#1 else 0#1) ++ (if b.fail then 1#1 else 0#1) ++
    (if b.done then 1#1 else 0#1))

/-- Whether a bay shows as stopped: an instruction that the yard performs completes first (R173, R399). -/
def Bay.cutShows (b : Bay) : Bool := b.debugStop && !b.awaitsYard

/-- What the debug block reads (R398, R399): the cut of the bay that CUTSEL chooses, 0 for one that is not stopped. -/
def State.debugRead (s : State) (off : Nat) : Word :=
  let d := s.yard.dbg
  let b := s.bay d.cutsel
  if off < 0x40 then (d.pbp.getD (off / 16) 0).extractLsb' (off % 16 / 8 * 64) 64
  else if 0x100 ≤ off ∧ off < 0x200 then (d.cbp.getD ((off - 0x100) / 16) 0).extractLsb' (off % 16 / 8 * 64) 64
  else if off = 0x208 then BitVec.ofNat 64 (d.cutsel.toNat + if b.cutShows then 256 else 0)
  else if 0x300 ≤ off ∧ off < 0x400 then (d.wp.getD ((off - 0x300) / 32) 0).extractLsb' (off % 32 / 8 * 64) 64
  else if !b.cutShows then 0
  else if off = 0x210 then b.gen.pc
  else if 0x218 ≤ off ∧ off < 0x240 then
    let q := (off - 0x218) / 8
    if queueExists (bayKind d.cutsel) q then BitVec.ofNat 64 (2 ^ 63 + (b.queue q).issued.toNat) else 0
  else 0

/-- What the telemetry block reads (R402, R412). -/
def State.telemetry (s : State) (off : Nat) : Word :=
  if off < 0x400 then Tab.get 0 (s.shed (BitVec.ofNat 4 (off / 0x40))).levels (off % 0x40 / 8)
  else if off < 0x580 then
    let l : Link := Tab.get {} s.links ((off - 0x400) / 16)
    if off % 16 = 0 then l.replays else l.downs
  else if 0x800 ≤ off ∧ off < 0xA00 then Tab.get 0 (Tab.get {} s.lofts ((off - 0x800) / 0x40) : Loft).ctr (off % 0x40 / 8)
  else 0

/-- What a function's BAR0 reads (R404). -/
def State.barRead (s : State) (fn : BitVec 6) (o : Nat) : Word :=
  if 0x11000 ≤ o then 0
  else if 0x10000 ≤ o then (if (s.sq (sqAt o)).func = fn then (s.sq (sqAt o)).read (o % 0x40) else 0)
  else if fn ≠ 0 then 0
  else match o / 0x1000 with
  | 0 => if o = 0 then s.boot.word else 0
  | 1 =>
    let k := s.yard.cmd
    match o % 0x1000 with
    | 0x00 => k.cmd
    | 0x08 => (if k.busy then 1#1 else 0#1) ++ 0#7 ++ k.result ++ 0#24 ++ k.code
    | 0x10 => k.arg0
    | 0x18 => k.arg1
    | 0x20 => k.arg2
    | 0x28 => k.arg3
    | _ => 0
  | 2 => (s.ctx (BitVec.ofNat 6 (o % 0x1000 / 0x40))).read (o % 0x40)
  | 3 => s.debugRead (o % 0x1000)
  | 6 => s.telemetry (o % 0x1000)
  | _ => 0

/-- A host read of BAR0, or of the discovery table in BAR2 (R17, R404): eight bytes. -/
def State.regRead (s : State) (fn : BitVec 6) (bar2 : Bool) (off : BitVec 17) : State :=
  { s with hostRead :=
      if bar2 then (List.range 8).map fun k => if off.toNat + k < 4096 then s.disc.getD (off.toNat + k) 0 else 0
      else leBytes (s.barRead fn off.toNat).toNat 8 }

/-! ### Requests from outside (R201, R406) -/

/-- A request performed at the home of a buffer that lives in this package. -/
def State.homeRequest (s : State) (c : CtxNo) (b : BufId) (off : Nat) (r : MemReq) : State :=
  match r with
  | .read n => { s.countLoft c b off 0 0 n.toNat with hostRead := s.homeBytes c b off n.toNat }
  | .write bs => (s.countLoft c b off 0 1 bs.length).homeStore c b off bs
  | .add v =>
    let x := (s.countLoft c b off 0 2 1).atomic c b off 8 fun old => (old + v.toNat) % 2 ^ 64
    { x.2 with hostRead := leBytes x.1 8 }

/-- Bytes of a request. -/
def MemReq.bytes : MemReq → Nat
  | .read n => n.toNat
  | .write bs => bs.length
  | .add _ => 8

/-- Whether a request from outside meets a buffer of this package's lofts, within its size. -/
def State.requestOk (s : State) (c : CtxNo) (b : BufId) (off n : Nat) : Bool :=
  match s.buf? c b with
  | none => false
  | some f => f.host.isNone && f.imp.isNone && b != 0xFFFFFF && decide (off + n ≤ f.size)

/-- HOST_MEMORY_REQUEST (R201): at the home, never through a shed cache. -/
def execHostMemoryRequest (ctx : CtxNo) (buf : BufId) (off : BitVec 48) (r : MemReq) (s : State) : Out :=
  .next (if s.requestOk ctx buf off.toNat (MemReq.bytes r) then s.homeRequest ctx buf off.toNat r else s)

/-- PEER_REQUEST (R406): of a package of the domain, to a context with DOM = 1, translated at its home loft. -/
def execPeerRequest (pkg : BitVec 6) (ctx : CtxNo) (buf : BufId) (off : BitVec 48) (r : MemReq) (s : State) : Out :=
  .next (if decide (pkg.toNat < s.die.dsize.toNat) && (s.ctx ctx).dom == 1 &&
      s.requestOk ctx buf off.toNat (MemReq.bytes r) then s.homeRequest ctx buf off.toNat r else s)

/-! ### Links (R405, R407) -/

/-- A link's state. -/
def State.modLink (s : State) (n : Nat) (f : Link → Link) : State := { s with links := Tab.mod {} s.links n f }

/-- LINK_REPLAY (R405, R412): 24 links; the replay delays its own channel only. -/
def execLinkReplay (link : BitVec 5) (vc : BitVec 2) (s : State) : Out :=
  let _ := vc
  .next (if link.toNat < 24 ∧ (Tab.get {} s.links link.toNat : Link).up then
    s.modLink link.toNat fun l => { l with replays := l.replays + 1 } else s)

/-- LINK_DOWN (R407): the other packages of `cut`, to which no path of at most two traversals is left, are out of reach from
now on; in the cycle that lasts, requests to other packages are lost with the link (log 26). -/
def execLinkDown (link : BitVec 5) (cut : BitVec 64) (s : State) : Out :=
  if 24 ≤ link.toNat ∨ !(Tab.get {} s.links link.toNat : Link).up then .next s
  else
    let gone := ((List.range 64).filter fun p => cut.getLsbD p && p != s.die.pkg.toNat).map (BitVec.ofNat 6)
    .next { s.modLink link.toNat fun l => { l with up := false, downs := l.downs + 1 } with
      remote := gone ++ s.remote, losing := true }

/-! ### Reset and boot (R16 to R20, R404, R408, R409) -/

/-- FUNCTION_LEVEL_RESET (R404). -/
def execFunctionLevelReset (fn : BitVec 4) (s : State) : Out :=
  if fn = 0 then .next (s.packageReset none)
  else
    let f : BitVec 6 := fn.setWidth 6
    let s1 := ((s.yard.ctxs.filter fun e => e.2.valid && e.2.func == f).map fun e => BitVec.ofNat 6 e.1).foldl
      (fun s c => s.killBy c 5) s
    .next (s1.modYard fun y =>
      { y with sqs := y.sqs.map fun e => (e.1, if e.2.func = f then e.2.resetSq else e.2) })

/-- KIND of a chiplet index (R10, R19). -/
def chipKind (i : Nat) : Nat := if i < 2 then i else if i < 10 then 2 else shedKind (BitVec.ofNat 4 (i - 10))

/-- STAT of a chiplet; in recovery mode only the yard and the I/O chiplet are live (R409; log 5). -/
def State.chipStat (s : State) (recov : Bool) (i : Nat) : BitVec 2 :=
  let t := s.die.stat.getD i 0
  if recov && decide (2 ≤ i) && t == 1 then 2 else t

/-- A chiplet entry of the discovery table (R19). -/
def State.chipEntry (s : State) (recov : Bool) (i : Nat) : Nat :=
  let k := chipKind i
  let shed := decide (10 ≤ i)
  let on := s.chipStat recov i == 1
  let pop : BitVec 16 := if shed && on then s.die.bpop.getD (i - 10) 0 else 0
  let ifShed (v : Nat) : Nat := if shed then v else 0
  let ifLoft (v : Nat) : Nat := if k = 2 then v else 0
  ifLoft 320 * 2 ^ 160 + ifLoft 64 * 2 ^ 144 + (if k = 2 then 192 else ifShed 16) * 2 ^ 128 + ifShed 64 * 2 ^ 112 +
    ifShed (if k = 5 then 128 else 64) * 2 ^ 96 + ifShed 16384 * 2 ^ 80 + ifShed (bayLanes k) * 2 ^ 64 +
    (pop &&& s.die.blive.getD (i - 10) 0).toNat * 2 ^ 48 + pop.toNat * 2 ^ 32 + ifLoft (i - 2) * 2 ^ 20 + ifShed (i - 10) * 2 ^ 16 +
    (s.chipStat recov i).toNat * 2 ^ 12 + k * 2 ^ 8 + i

/-- The live bays of the package (R18). -/
def State.liveBays (s : State) : Nat := ((List.range 256).filter fun b => s.live (BitVec.ofNat 8 b)).length

/-- The header of the discovery table (R18). -/
def State.discHeader (s : State) (recov : Bool) : Nat :=
  let prof (p : Nat) : Nat := if recov then (if p = 1 ∨ 5 ≤ p then 0 else 2) else s.profileVersion p
  Config.taskSlots * 2 ^ 224 + (if recov then 0 else s.liveBays) * 2 ^ 192 + prof 6 * 2 ^ 176 + prof 5 * 2 ^ 168 +
    prof 4 * 2 ^ 160 + prof 3 * 2 ^ 152 + prof 2 * 2 ^ 144 + prof 1 * 2 ^ 136 + prof 0 * 2 ^ 128 +
    (if recov then 2 ^ 127 else 0) + s.die.dsize.toNat * 2 ^ 120 + s.die.pkg.toNat * 2 ^ 112 + 1100 * 2 ^ 96 +
    32 * 2 ^ 88 + 26 * 2 ^ 80 + 1 * 2 ^ 72 + s.die.code.toNat * 2 ^ 64 + 64 * 2 ^ 48 + 1 * 2 ^ 32 + 0x5444575A

/-- The discovery table (R16 to R19); bytes behind its entries read 0. -/
def State.discTable (s : State) (recov : Bool) : List Byte :=
  leBytes (s.discHeader recov) 64 ++ (List.range Config.chiplets).flatMap fun i => leBytes (s.chipEntry recov i) 32

/-- The first step of a boot that fails, as REASON; 0 when none does (R408, R409). -/
def bootReason (b : BootSt) (image : List Byte) (e : BootEnd) : Byte :=
  if Config.sha3 (leBytes b.pubkey.toNat 32) ≠ b.keyFuse ∨ !Config.mldsaVerify b.pubkey (Config.sha3 image) b.sign then 1
  else if b.secver.toNat < b.minFuse.toNat then 2
  else match e with
  | .good => 0
  | .ucie => 3
  | .hbm => 4
  | .chiplet => 5
  | .timeout => 6

/-- Draws a bank key for each shed (R154; log 8). -/
def State.drawShedKeys (s : State) : Nat → State
  | 0 => s
  | n + 1 =>
    let f := (s.drawShedKeys n).draw
    f.2.modShed (BitVec.ofNat 4 n) fun d => { d with key := f.1 }

/-- A 256-bit number of four words. -/
def wide256 (l : List Word) : BitVec 256 := l.getD 0 0 ++ l.getD 1 0 ++ l.getD 2 0 ++ l.getD 3 0

/-- Measurement registers 1 to 7: each chiplet's firmware is outside the model, so its digest is a free value
(log 5). -/
def State.measureChips (s : State) : Nat → List (BitVec 256) × State
  | 0 => ([], s)
  | n + 1 =>
    let r := s.measureChips n
    let f := r.2.draws 4
    (r.1 ++ [Config.sha3 (leBytes 0 32 ++ leBytes (wide256 f.1).toNat 32)], f.2)

/-- Measurement register 0, extended with the image's digest (R408 step 5). -/
def bootMeasure (image : List Byte) : BitVec 256 := Config.sha3 (leBytes 0 32 ++ leBytes (Config.sha3 image).toNat 32)

/-- The firmware store of a bay as boot firmware loads it from the measured image (R109; log 9). -/
def firmwareStore (image : List Byte) (b : BayNo) : Mem :=
  Mem.writeN [] 0 ((List.range Config.firmwareBytes).map (Config.firmwareByte image b.toNat))

/-- Loads the firmware store of every populated bay. -/
def State.loadStores (s : State) (image : List Byte) : State :=
  ((List.range 256).map (BitVec.ofNat 8)).foldl (fun s b =>
    if s.populated b then s.modBay b fun y => { y with firmware := firmwareStore image b } else s) s

/-- A boot that succeeds: registers measured, firmware stores loaded, discovery table written, DONE set. -/
def State.bootDone (s : State) (image : List Byte) : State :=
  let m := s.measureChips 7
  let s1 := (m.2.drawShedKeys 16).loadStores image
  ({ s1 with
     disc := s1.discTable false
     boot := { s1.boot with done := true, fail := false, reason := 0, lastReason := 0, fails := 0, loadfw := none,
                            measure := bootMeasure image :: m.1 } } : State).interrupt 0 0

/-- BOOT (R408, R409): after three failures a boot without a loaded image starts in recovery mode. The steps before the
one that fails have been performed: a failure of the firmware comes after step 5. In recovery mode FAIL reads as the boot
before left it: 0 after a package reset, 1 where the recovery boot follows the failed one (DESIGN CHOICE, log 73). -/
def execBoot (e : BootEnd) (s : State) : Out :=
  let b := s.boot
  if b.done || b.recov then .next s
  else if decide (3 ≤ b.fails.toNat) && b.loadfw.isNone then
    .next (({ s with disc := s.discTable true, boot := { b with recov := true, reason := b.lastReason } } :
      State).interrupt 0 0)
  else
    let image := b.loadfw.getD b.image
    let r := bootReason b image e
    if r = 0 then .next (s.bootDone image)
    else .next { s with boot := { b with fail := true, reason := r, lastReason := r, loadfw := none
                                         measure := if 3 ≤ r.toNat then [bootMeasure image] else b.measure
                                         fails := if b.fails = 15 then 15 else b.fails + 1 } }

/-! ### Throttle and time (R24, R390, R391, R412) -/

/-- THROTTLE (R412): one level up or down. -/
def execThrottle (shed : BitVec 4) (up : BitVec 1) (s : State) : Out :=
  .next (s.modShed shed fun d =>
    { d with level := if up = 1 then (if d.level.toNat < 4 then d.level + 1 else d.level)
                      else (if d.level = 0 then 0 else d.level - 1) })

/-- n cycles in a bay: a wait goes on, mcycle counts, the watchdogs count; the save's from step 3 of R385 on (R391). The cycles
that a wait spends in a debug stop, in which it makes no test, do not count towards its limit (R214, R399; DESIGN CHOICE, log 73). -/
def Bay.tick (b : Bay) (n : Nat) : Bay :=
  let b1 := b.modGen fun g =>
    let g1 := { g with wait := match g.wait with
      | some (.poll i w) => some (.poll i (if b.debugStop then w else w + n))
      | w => w }
    if (g1.csrRd 0x320).getLsbD 0 then g1 else g1.csrWr 0xB00 (g1.csrRd 0xB00 + BitVec.ofNat 64 n)
  if b1.task.isNone then b1
  else { b1 with judged := if n = 0 then b1.judged else 0
                 wf := { b1.wf with fresh := b1.wf.fresh && n == 0 }
                 hangCount := b1.hangCount + n
                 saveCount := if !b1.saving then 0 else if b1.debugStop || b1.awaitsYard then b1.saveCount
                   else b1.saveCount + n }

/-- n cycles in a shed: the counter of its level (R412). -/
def Shed.tick (d : Shed) (n : Nat) : Shed :=
  { d with levels := Tab.mod 0 d.levels d.level.toNat fun v => v + BitVec.ofNat 64 n }

/-- n cycles pass (log 29): the busy count of a class grows while none of its live bays is free (R24). -/
def State.tick (s : State) (n : Nat) : State :=
  let busy := [0, 1, 2, 3].map fun k => if (s.freeBays (k + 3)).isEmpty then s.yard.busy.getD k 0 + n else 0
  { (s.modYard fun y => { y with busy := busy, fellBack := if n = 0 then y.fellBack else 0
                                 dispatched := if n = 0 then y.dispatched else 0
                                 unit := if n = 0 then y.unit else {} }) with
    now := s.now + n
    losing := s.losing && n == 0
    bays := s.bays.map fun e => (e.1, e.2.tick n)
    sheds := (List.range 16).map fun k => (k, (s.shed (BitVec.ofNat 4 k)).tick n) }

end Sys2Proof.Machine
end

