-- ==== Sys2Proof/Machine/Dispatch.lean ====
section
/-! DEFINITION. exec, one arm for each constructor of Instr. -/
namespace Sys2Proof.Machine

def exec (i : Instr) (s : State) : Host.Outcome State Fault Refusal :=
  match i with
  | .emit rs1 => Sys2Proof.Machine.execEmit rs1 s
  | .emit2 rs1 => Sys2Proof.Machine.execEmit2 rs1 s
  | .emitnb rd rs1 => Sys2Proof.Machine.execEmitnb rd rs1 s
  | .emits rs1 rs2 => Sys2Proof.Machine.execEmits rs1 rs2 s
  | .emitq rd rs1 => Sys2Proof.Machine.execEmitq rd rs1 s
  | .roomAccept bay => Sys2Proof.Machine.execRoomAccept bay s
  | .accrd rd rd2 rs1 => Sys2Proof.Machine.execAccrd rd rd2 rs1 s
  | .bfext rd rs1 pos len1 => Sys2Proof.Machine.execBfext rd rs1 pos len1 s
  | .bfins rd rs1 pos len1 => Sys2Proof.Machine.execBfins rd rs1 pos len1 s
  | .bbc n => Sys2Proof.Machine.execBbc n s
  | .trmark rs1 tag => Sys2Proof.Machine.execTrmark rs1 tag s
  | .lbC rd rs1 off cls => Sys2Proof.Machine.execLbC rd rs1 off cls s
  | .lhC rd rs1 off cls => Sys2Proof.Machine.execLhC rd rs1 off cls s
  | .lwC rd rs1 off cls => Sys2Proof.Machine.execLwC rd rs1 off cls s
  | .ldC rd rs1 off cls => Sys2Proof.Machine.execLdC rd rs1 off cls s
  | .lbuC rd rs1 off cls => Sys2Proof.Machine.execLbuC rd rs1 off cls s
  | .lhuC rd rs1 off cls => Sys2Proof.Machine.execLhuC rd rs1 off cls s
  | .lwuC rd rs1 off cls => Sys2Proof.Machine.execLwuC rd rs1 off cls s
  | .sbC rs2 rs1 off cls => Sys2Proof.Machine.execSbC rs2 rs1 off cls s
  | .shC rs2 rs1 off cls => Sys2Proof.Machine.execShC rs2 rs1 off cls s
  | .swC rs2 rs1 off cls => Sys2Proof.Machine.execSwC rs2 rs1 off cls s
  | .sdC rs2 rs1 off cls => Sys2Proof.Machine.execSdC rs2 rs1 off cls s
  | .rv64Load x rd rs1 imm => Sys2Proof.Machine.execRv64Load x rd rs1 imm s
  | .rv64Store x rs2 rs1 imm => Sys2Proof.Machine.execRv64Store x rs2 rs1 imm s
  | .rv64Amo op dbl aq rl rd rs1 rs2 => Sys2Proof.Machine.execRv64Amo op dbl aq rl rd rs1 rs2 s
  | .jumpBranch j => Sys2Proof.Machine.execJumpBranch j s
  | .fence fm pred succ rs1 rd => Sys2Proof.Machine.execFence fm pred succ rs1 rd s
  | .fenceI imm rs1 rd => Sys2Proof.Machine.execFenceI imm rs1 rd s
  | .ecall => Sys2Proof.Machine.execEcall s
  | .ebreak => Sys2Proof.Machine.execEbreak s
  | .xret machine => Sys2Proof.Machine.execXret machine s
  | .csrAccess op rd src csr => Sys2Proof.Machine.execCsrAccess op rd src csr s
  | .fenceCm mask scope => Sys2Proof.Machine.execFenceCm mask scope s
  | .talloc rd rs1 rs2 => Sys2Proof.Machine.execTalloc rd rs1 rs2 s
  | .tfree rs1 => Sys2Proof.Machine.execTfree rs1 s
  | .markerPass bay q => Sys2Proof.Machine.execMarkerPass bay q s
  | .tinfo rd rs1 => Sys2Proof.Machine.execTinfo rd rs1 s
  | .twait rs1 rs2 => Sys2Proof.Machine.execTwait rs1 rs2 s
  | .tstat rd rs1 => Sys2Proof.Machine.execTstat rd rs1 s
  | .btst rd rs1 rs2 => Sys2Proof.Machine.execBtst rd rs1 rs2 s
  | .capNew rd rs1 rs2 => Sys2Proof.Machine.execCapNew rd rs1 rs2 s
  | .capShare rs1 rs2 => Sys2Proof.Machine.execCapShare rs1 rs2 s
  | .capXfer rs1 rs2 => Sys2Proof.Machine.execCapXfer rs1 rs2 s
  | .capabilityWaitDone bay => Sys2Proof.Machine.execCapabilityWaitDone bay s
  | .capDrop rs1 => Sys2Proof.Machine.execCapDrop rs1 s
  | .capNarrow rs1 rs2 => Sys2Proof.Machine.execCapNarrow rs1 rs2 s
  | .capInfo rd rs1 => Sys2Proof.Machine.execCapInfo rd rs1 s
  | .yardAcknowledge bay => Sys2Proof.Machine.execYardAcknowledge bay s
  | .tdSet rs1 rs2 => Sys2Proof.Machine.execTdSet rs1 rs2 s
  | .tdGet rd rs1 => Sys2Proof.Machine.execTdGet rd rs1 s
  | .tdBind rs1 rs2 => Sys2Proof.Machine.execTdBind rs1 rs2 s
  | .barInit rs1 rs2 => Sys2Proof.Machine.execBarInit rs1 rs2 s
  | .barArrive rs1 => Sys2Proof.Machine.execBarArrive rs1 s
  | .barWait rs1 rs2 => Sys2Proof.Machine.execBarWait rs1 rs2 s
  | .barWaitSatisfied bay => Sys2Proof.Machine.execBarWaitSatisfied bay s
  | .ringPut rs1 rs2 => Sys2Proof.Machine.execRingPut rs1 rs2 s
  | .ringSlotFreed shed ring => Sys2Proof.Machine.execRingSlotFreed shed ring s
  | .ringGet rd rs1 rs2 => Sys2Proof.Machine.execRingGet rd rs1 rs2 s
  | .ringGetSatisfied bay => Sys2Proof.Machine.execRingGetSatisfied bay s
  | .ringDone rs1 => Sys2Proof.Machine.execRingDone rs1 s
  | .waitExpired bay => Sys2Proof.Machine.execWaitExpired bay s
  | .amoPkmin aq rl rd rs1 rs2 => Sys2Proof.Machine.execAmoPkmin aq rl rd rs1 rs2 s
  | .amoPkmax aq rl rd rs1 rs2 => Sys2Proof.Machine.execAmoPkmax aq rl rd rs1 rs2 s
  | .taskSpawn rd rs1 => Sys2Proof.Machine.execTaskSpawn rd rs1 s
  | .taskDec rs1 => Sys2Proof.Machine.execTaskDec rs1 s
  | .taskEnd => Sys2Proof.Machine.execTaskEnd s
  | .taskAbort => Sys2Proof.Machine.execTaskAbort s
  | .taskArg rd rs1 => Sys2Proof.Machine.execTaskArg rd rs1 s
  | .taskId rd => Sys2Proof.Machine.execTaskId rd s
  | .bayResume => Sys2Proof.Machine.execBayResume s
  | .bayFlush rs1 => Sys2Proof.Machine.execBayFlush rs1 s
  | .qstat rd rs1 => Sys2Proof.Machine.execQstat rd rs1 s
  | .queueTake bay => Sys2Proof.Machine.execQueueTake bay s
  | .syNop mask => Sys2Proof.Machine.execSyNop mask s
  | .syNotify mask token => Sys2Proof.Machine.execSyNotify mask token s
  | .syArrive mask b => Sys2Proof.Machine.execSyArrive mask b s
  | .syWait mask b => Sys2Proof.Machine.execSyWait mask b s
  | .syRdv mask => Sys2Proof.Machine.execSyRdv mask s
  | .syFence mask scope cls => Sys2Proof.Machine.execSyFence mask scope cls s
  | .sySlip mask depth => Sys2Proof.Machine.execSySlip mask depth s
  | .syRound mask => Sys2Proof.Machine.execSyRound mask s
  | .syRoundLeave bay q => Sys2Proof.Machine.execSyRoundLeave bay q s
  | .mxCfg m1 n1 afmt sa sb => Sys2Proof.Machine.execMxCfg m1 n1 afmt sa sb s
  | .mxMma p set ovw cl ta tb => Sys2Proof.Machine.execMxMma p set ovw cl ta tb s
  | .mxMmw p set ovw kb cl ta => Sys2Proof.Machine.execMxMmw p set ovw kb cl ta s
  | .mxMmh p w set ovw cl tx tb => Sys2Proof.Machine.execMxMmh p w set ovw cl tx tb s
  | .mxGroupRetire bay => Sys2Proof.Machine.execMxGroupRetire bay s
  | .mxLdw g1 so koff clr cl tw => Sys2Proof.Machine.execMxLdw g1 so koff clr cl tw s
  | .mxInit set ti => Sys2Proof.Machine.execMxInit set ti s
  | .mxZero set => Sys2Proof.Machine.execMxZero set s
  | .mxDrain fd rnd g3 set zaft cl td => Sys2Proof.Machine.execMxDrain fd rnd g3 set zaft cl td s
  | .mxRq f => Sys2Proof.Machine.execMxRq f s
  | .mxSnap set td => Sys2Proof.Machine.execMxSnap set td s
  | .vxAdd f => Sys2Proof.Machine.execVxAdd f s
  | .vxSub f => Sys2Proof.Machine.execVxSub f s
  | .vxMul f => Sys2Proof.Machine.execVxMul f s
  | .vxFma f => Sys2Proof.Machine.execVxFma f s
  | .vxMin f => Sys2Proof.Machine.execVxMin f s
  | .vxMax f => Sys2Proof.Machine.execVxMax f s
  | .vxAbs f => Sys2Proof.Machine.execVxAbs f s
  | .vxNeg f => Sys2Proof.Machine.execVxNeg f s
  | .vxAnd f => Sys2Proof.Machine.execVxAnd f s
  | .vxOr f => Sys2Proof.Machine.execVxOr f s
  | .vxXor f => Sys2Proof.Machine.execVxXor f s
  | .vxNot f => Sys2Proof.Machine.execVxNot f s
  | .vxShl f => Sys2Proof.Machine.execVxShl f s
  | .vxShr f => Sys2Proof.Machine.execVxShr f s
  | .vxSra f => Sys2Proof.Machine.execVxSra f s
  | .vxCeq f => Sys2Proof.Machine.execVxCeq f s
  | .vxCne f => Sys2Proof.Machine.execVxCne f s
  | .vxClt f => Sys2Proof.Machine.execVxClt f s
  | .vxCle f => Sys2Proof.Machine.execVxCle f s
  | .vxSel f => Sys2Proof.Machine.execVxSel f s
  | .vxCvt f src => Sys2Proof.Machine.execVxCvt f src s
  | .vxMov f => Sys2Proof.Machine.execVxMov f s
  | .vxSet st d k t r m => Sys2Proof.Machine.execVxSet st d k t r m s
  | .vxExp2 f => Sys2Proof.Machine.execVxExp2 f s
  | .vxLog2 f => Sys2Proof.Machine.execVxLog2 f s
  | .vxRcp f => Sys2Proof.Machine.execVxRcp f s
  | .vxRsqrt f => Sys2Proof.Machine.execVxRsqrt f s
  | .vxSqrt f => Sys2Proof.Machine.execVxSqrt f s
  | .vxSin f => Sys2Proof.Machine.execVxSin f s
  | .vxCos f => Sys2Proof.Machine.execVxCos f s
  | .vxTanh f => Sys2Proof.Machine.execVxTanh f s
  | .vxRsum f => Sys2Proof.Machine.execVxRsum f s
  | .vxRmin f => Sys2Proof.Machine.execVxRmin f s
  | .vxRmax f => Sys2Proof.Machine.execVxRmax f s
  | .vxSsum f => Sys2Proof.Machine.execVxSsum f s
  | .vxSmin f => Sys2Proof.Machine.execVxSmin f s
  | .vxSmax f => Sys2Proof.Machine.execVxSmax f s
  | .vxGath f => Sys2Proof.Machine.execVxGath f s
  | .vxScat f => Sys2Proof.Machine.execVxScat f s
  | .vxCmpct f => Sys2Proof.Machine.execVxCmpct f s
  | .vxHist f nbin1 mode base => Sys2Proof.Machine.execVxHist f nbin1 mode base s
  | .vxSlot st d tile off stride count => Sys2Proof.Machine.execVxSlot st d tile off stride count s
  | .vxSeg st d tile tl off nseg => Sys2Proof.Machine.execVxSeg st d tile tl off nseg s
  | .vxChk st on => Sys2Proof.Machine.execVxChk st on s
  | .vxWriteLand bay => Sys2Proof.Machine.execVxWriteLand bay s
  | .cpLoop q lev dsel cnt1 nlev step => Sys2Proof.Machine.execCpLoop q lev dsel cnt1 nlev step s
  | .cpOrg q val add comp => Sys2Proof.Machine.execCpOrg q val add comp s
  | .cpPad q pad => Sys2Proof.Machine.execCpPad q pad s
  | .cpIn c t h => Sys2Proof.Machine.execCpIn c t h s
  | .cpInCout c t h => Sys2Proof.Machine.execCpInCout c t h s
  | .cpOut c t h => Sys2Proof.Machine.execCpOut c t h s
  | .cpOutCin c t h => Sys2Proof.Machine.execCpOutCin c t h s
  | .cpFill t h => Sys2Proof.Machine.execCpFill t h s
  | .cpFillCin t h => Sys2Proof.Machine.execCpFillCin t h s
  | .cpT2t q t src tdst rnd => Sys2Proof.Machine.execCpT2t q t src tdst rnd s
  | .cpGath q c t h ti => Sys2Proof.Machine.execCpGath q c t h ti s
  | .cpScat q c t h ti => Sys2Proof.Machine.execCpScat q c t h ti s
  | .cpRed q c t h op rnd res tr => Sys2Proof.Machine.execCpRed q c t h op rnd res tr s
  | .cpPeer q c t h sig std => Sys2Proof.Machine.execCpPeer q c t h sig std s
  | .cpDrain c scope => Sys2Proof.Machine.execCpDrain c scope s
  | .cpDrainCin c scope => Sys2Proof.Machine.execCpDrainCin c scope s
  | .copyComplete bay q k => Sys2Proof.Machine.execCopyComplete bay q k s
  | .copySourceRead bay q k => Sys2Proof.Machine.execCopySourceRead bay q k s
  | .reductionAtHome k => Sys2Proof.Machine.execReductionAtHome k s
  | .histogramIncrement k => Sys2Proof.Machine.execHistogramIncrement k s
  | .sidecarMerge k => Sys2Proof.Machine.execSidecarMerge k s
  | .kxIld ts ti => Sys2Proof.Machine.execKxIld ts ti s
  | .kxSpmm f => Sys2Proof.Machine.execKxSpmm f s
  | .kxBspmm f => Sys2Proof.Machine.execKxBspmm f s
  | .kxSddmm f => Sys2Proof.Machine.execKxSddmm f s
  | .kxSpadd neg blk tv ti tc rnd sat => Sys2Proof.Machine.execKxSpadd neg blk tv ti tc rnd sat s
  | .kxSort f n tcn cen => Sys2Proof.Machine.execKxSort f n tcn cen s
  | .kxMerge f tl nseg => Sys2Proof.Machine.execKxMerge f tl nseg s
  | .kxSsort f tl nseg => Sys2Proof.Machine.execKxSsort f tl nseg s
  | .kxCmpct kt ven tv tk n tcn cen => Sys2Proof.Machine.execKxCmpct kt ven tv tk n tcn cen s
  | .kxUniq kt ven tv tk => Sys2Proof.Machine.execKxUniq kt ven tv tk s
  | .kxTopk f n k1 => Sys2Proof.Machine.execKxTopk f n k1 s
  | .classWordComplete bay => Sys2Proof.Machine.execClassWordComplete bay s
  | .wordFaultInterrupt bay => Sys2Proof.Machine.execWordFaultInterrupt bay s
  | .taskDispatch cls => Sys2Proof.Machine.execTaskDispatch cls s
  | .fallbackMove cls => Sys2Proof.Machine.execFallbackMove cls s
  | .taskCompletion bay => Sys2Proof.Machine.execTaskCompletion bay s
  | .applyDecrement => Sys2Proof.Machine.execApplyDecrement s
  | .graphEnd g => Sys2Proof.Machine.execGraphEnd g s
  | .preemption cls => Sys2Proof.Machine.execPreemption cls s
  | .saveComplete bay => Sys2Proof.Machine.execSaveComplete bay s
  | .restore bay => Sys2Proof.Machine.execRestore bay s
  | .hang bay => Sys2Proof.Machine.execHang bay s
  | .saveTimeout bay => Sys2Proof.Machine.execSaveTimeout bay s
  | .contextKill ctx cause task bay => Sys2Proof.Machine.execContextKill ctx cause task bay s
  | .doorbell q tail => Sys2Proof.Machine.execDoorbell q tail s
  | .sqReset q => Sys2Proof.Machine.execSqReset q s
  | .halt q => Sys2Proof.Machine.execHalt q s
  | .haltClear q => Sys2Proof.Machine.execHaltClear q s
  | .en q v => Sys2Proof.Machine.execEn q v s
  | .packetFetch q n => Sys2Proof.Machine.execPacketFetch q n s
  | .nop ndw => Sys2Proof.Machine.execNop ndw s
  | .launch lix a tag => Sys2Proof.Machine.execLaunch lix a tag s
  | .ind a len => Sys2Proof.Machine.execInd a len s
  | .pred cmp a val skip => Sys2Proof.Machine.execPred cmp a val skip s
  | .loop rep1 body1 => Sys2Proof.Machine.execLoop rep1 body1 s
  | .ffence => Sys2Proof.Machine.execFfence s
  | .write a data => Sys2Proof.Machine.execWrite a data s
  | .wait cmp a val => Sys2Proof.Machine.execWait cmp a val s
  | .waitReread q => Sys2Proof.Machine.execWaitReread q s
  | .signal op waitg a val => Sys2Proof.Machine.execSignal op waitg a val s
  | .dma src dst count => Sys2Proof.Machine.execDma src dst count s
  | .iflush buf => Sys2Proof.Machine.execIflush buf s
  | .create ctx => Sys2Proof.Machine.execCreate ctx s
  | .destroy ctx => Sys2Proof.Machine.execDestroy ctx s
  | .kill ctx => Sys2Proof.Machine.execKill ctx s
  | .grant ctx shed ring idx => Sys2Proof.Machine.execGrant ctx shed ring idx s
  | .revoke ctx shed ring idx => Sys2Proof.Machine.execRevoke ctx shed ring idx s
  | .hostbuf ctx bus size rights => Sys2Proof.Machine.execHostbuf ctx bus size rights s
  | .imprt ctx pkg pctx pbuf rights => Sys2Proof.Machine.execImprt ctx pkg pctx pbuf rights s
  | .remap ctx buf page => Sys2Proof.Machine.execRemap ctx buf page s
  | .attest nonce report => Sys2Proof.Machine.execAttest nonce report s
  | .loadfw addr len => Sys2Proof.Machine.execLoadfw addr len s
  | .commandCompletion => Sys2Proof.Machine.execCommandCompletion s
  | .debugStopBay bay => Sys2Proof.Machine.execDebugStopBay bay s
  | .debugStopContext ctx => Sys2Proof.Machine.execDebugStopContext ctx s
  | .debugRestart => Sys2Proof.Machine.execDebugRestart s
  | .registerWrite fn off val => Sys2Proof.Machine.execRegisterWrite fn off val s
  | .hostMemoryRequest ctx buf off r => Sys2Proof.Machine.execHostMemoryRequest ctx buf off r s
  | .peerRequest pkg ctx buf off r => Sys2Proof.Machine.execPeerRequest pkg ctx buf off r s
  | .linkReplay link vc => Sys2Proof.Machine.execLinkReplay link vc s
  | .linkDown link cut => Sys2Proof.Machine.execLinkDown link cut s
  | .functionLevelReset fn => Sys2Proof.Machine.execFunctionLevelReset fn s
  | .boot e => Sys2Proof.Machine.execBoot e s
  | .throttle shed up => Sys2Proof.Machine.execThrottle shed up s
  | .integerAlu a => Sys2Proof.Machine.execIntegerAlu a s
  | .wfi => Sys2Proof.Machine.execWfi s
  | .illegalInstruction w => Sys2Proof.Machine.execIllegalInstruction w s
  | .mxLastRowWritten bay port => Sys2Proof.Machine.execMxLastRowWritten bay port s

end Sys2Proof.Machine
end

