-- ==== Sys2Proof/Machine/Fetch.lean ====
section
/-! DEFINITION. What the next step executes: the generator's boundary and fetch (R43, R109, R110, R144, R398), the heads
of the queues (R114, R118), the packet reader's turn, and what happens in the package without an instruction. -/
namespace Sys2Proof.Machine

/-! ### The generator's boundary (R43, R109, R110, R144, R398) -/

/-- The buffer that SLOT 63 of a pc names in the generator's mode, none for the firmware store (R109). -/
def Bay.pcBuf (b : Bay) : Option BufId :=
  if b.gen.mode = 0 then some b.code else if b.gen.mode = 1 then some runtimeBuf else none

/-- The key of an instruction-cache line: of a buffer, or of the firmware store, which no buffer's key meets. -/
def Bay.fetchKey (b : Bay) (off : Nat) : Nat :=
  match b.pcBuf with
  | some f => lineKey b.ctx f off
  | none => memKey 1 0 0 off / 64

/-- The 64 bytes of the line that holds an offset of the code, as a fetch reads them: class 15 (R190). -/
def State.fetchLine (s : State) (b : BayNo) (off : Nat) : List Byte × State :=
  let y := s.bay b
  let base := off / 64 * 64
  match y.pcBuf with
  | some f => s.load (shedOf b) 15 y.ctx f base 64
  | none => (y.firmware.readN base 64, s)

/-- The instruction at an offset, through the instruction cache (R110). -/
def State.fetchWord (s : State) (b : BayNo) (off : Nat) : W32 × State :=
  let y := s.bay b
  let word (l : List Byte) : W32 := BitVec.ofNat 32 (leNat ((l.drop (off % 64)).take 4))
  match y.icache.find? (y.fetchKey off) with
  | some l => (word l, s)
  | none =>
    let r := s.fetchLine b off
    (word r.1, r.2.modBay b fun y => { y with icache := Tab.putIn Config.icacheLines y.icache (y.fetchKey off) r.1 })

/-- The first code breakpoint that the pc of a bay meets: its ACT bit (R398). cap63 is the running task's, in every mode
(log 57). -/
def State.codeBreak (s : State) (y : Bay) : Option Bool :=
  (s.yard.dbg.cbp.find? fun p =>
    p.getLsbD 127 && p.extractLsb' 120 6 == y.ctx && p.extractLsb' 96 24 == y.code &&
      p.extractLsb' 0 32 == y.gen.off).map fun p => p.getLsbD 126

/-- Whether a generator neither issues nor takes an interrupt: no task, a debug stop, a stop order, or an instruction that
awaits the yard's acknowledgement (R173, R385, R399). -/
def Bay.still (b : Bay) : Bool := b.task.isNone || b.debugStop || b.saving || b.awaitsYard

/-- The instruction that stands at a bay's pc, fetched; an encoding that is not assigned is the illegal instruction
(R64). -/
def State.fetch (s : State) (b : BayNo) : Instr × State :=
  let r := s.fetchWord b ((s.bay b).gen.pc.toNat % 2 ^ 32)
  (match decodeGen r.1 with
   | .ok i => i
   | .error _ => .illegalInstruction r.1, r.2)

/-- Whether the fetch at a bay's pc fails: outside the code (R43), or no path to its home (R407). -/
def State.fetchFails (s : State) (y : Bay) : Bool :=
  !s.pcOk y y.gen.pc || y.gen.pc.toNat % 4 != 0 || (match y.pcBuf with
    | some f => s.unreachable y.ctx f
    | none => false)

/-- A generator's turn: the kill that a fault in M-mode firmware brings (R393), an interrupt, a breakpoint or a failing
fetch, or its next instruction. -/
def State.genTurn (s : State) (b : BayNo) : Turn :=
  let y := s.bay b
  if y.task.isSome && y.gen.mfault then .run (.contextKill y.ctx 6 (y.task.getD 0) b) s
  else if y.still then .stay s
  else match y.interrupt? with
  | some n => .stay (s.modBay b fun y => y.modGen fun g => g.takeInterrupt n)
  | none =>
    if y.gen.parked then .stay s
    else match s.codeBreak y with
    | some true => .stay (s.modBay b fun y => { y with debugStop := true })
    | some false => .stay (s.modBay b fun y => y.fault cBreak y.gen.pc)
    | none =>
      if s.fetchFails y then .stay (s.modBay b fun y => y.fault cFetch y.gen.pc)
      else .run (s.fetch b).1 { (s.fetch b).2 with cur := b }

/-! ### The heads of the queues -/

/-- A queue has drained to its notify, which it records while it stands at the head (R232, R361, R365). -/
def Bay.recordEnd (b : Bay) (q : Nat) (e : Entry) : Bay :=
  if b.canIssue && b.idle q then b.modQueue q fun v => v.notify 0x7FFFF e else b

/-- A queue's turn: a marker passes, a notify is recorded, a stopped vector word continues, and a word at the head is
decoded; one that is no instruction is an illegal word (R55, R379). -/
def State.issueTurn (s : State) (b : BayNo) (q : QId) : Turn :=
  let y := s.bay b
  let s1 := { s with cur := b, curQ := q }
  if 4 < q.toNat then .stay s
  else if q = 1 ∧ y.vx.stopped.isSome then
    match y.vx.stopped with
    | some j => .run j.instr s1
    | none => .stay s
  else match y.head? q.toNat with
  | none => .stay s
  | some e =>
    match e.kind with
    | .notify => .stay (s.modBay b fun y => y.recordEnd q.toNat e)
    | .marker _ => .run (.markerPass b q) s1
    | .word =>
      match decodeWord e.w e.pfx with
      | .ok i => .run i s1
      | .error _ => .stay (if y.canIssue then s.modBay b fun y => y.judgeFault q.toNat e wIllegal .nothing else s)

/-! ### What happens without an instruction -/

/-- One row of an executing word. -/
def State.rowTurn (s : State) (b : BayNo) (u : BitVec 2) (k : Nat) : State :=
  if !s.populated b then s
  else if u = 0 then s.stepCp b 0 k
  else if u = 1 then s.stepCp b 1 k
  else if u = 2 then (if (s.bay b).halted then s else if k = 0 then s.stepPort b else s.stepLdw b)
  else s.stepKx b

/-- Applies f to a loft. -/
def State.modLoft (s : State) (n : BitVec 3) (f : Loft → Loft) : State := { s with lofts := Tab.mod {} s.lofts n.toNat f }

/-- The package's own doings and the outside world's, which no row of the opcode table names. -/
def State.doing (s : State) (a : Action) : Turn :=
  match a with
  | .gen b => s.genTurn b
  | .issue b q => s.issueTurn b q
  | .packet q => s.turn q
  | .event i => .run i s
  | .row b u k => .stay (s.rowTurn b u k)
  | .tick n => .stay (s.tick n)
  | .evict shed key => .stay (s.dropLine shed key)
  | .ievict b key => .stay (s.modBay b fun y => { y with icache := y.icache.erase key })
  | .devict b id => .stay (s.modBay b fun y => { y with dcache := y.dcache.erase id.toNat })
  | .look b slot => .stay (s.lookFill b slot.toNat)
  | .unlook b key => .stay (s.modBay b fun y => { y with look := y.look.erase key })
  | .dfill b key => .stay (s.dataFill b key)
  | .ddrop b key => .stay (s.modBay b fun y => { y with dlines := y.dlines.erase key })
  | .tdrop loft key => .stay (s.modLoft loft fun d => { d with tlb := d.tlb.erase key })
  | .ldrop loft key => .stay (s.modLoft loft fun d => { d with lines := d.lines.erase key })
  | .assign q fn ctx => .stay (s.modSq q fun x => { x with func := fn, ctx := ctx })
  | .hostStore bus bytes => .stay { s with host := Mem.writeN s.host bus.toNat bytes }
  | .peerStore pkg ctx buf off bytes =>
    .stay (if pkg = s.die.pkg then s
           else { s with mem := Tab.putN s.mem (memKey pkg.toNat ctx.toNat buf.toNat off.toNat) bytes })
  | .regRead fn bar2 off => .stay (s.regRead fn bar2 off)
  | .flash image sign secver pubkey =>
    .stay { s with boot := { s.boot with image := image, sign := sign, secver := secver, pubkey := pubkey } }

/-- What happens when the agenda names nothing: the package boots after a reset (R408), and from then on the generator of
the current bay goes on. -/
def State.idleAction (s : State) : Action :=
  if s.boot.done || s.boot.recov then .gen s.cur else .event (.boot .good)

/-- Whether a queue has something to judge: an entry at its head, or the stopped vector word. -/
def Bay.stands (b : Bay) (q : Nat) : Bool := (b.head? q).isSome || (q == 1 && b.vx.stopped.isSome)

/-- The queue that a bay judges next when queue q is to be judged: in one cycle the queues are judged in ascending id, so a
lower one that this cycle has not judged comes first (R151); judging q again begins a cycle. -/
def Bay.nextJudged (b : Bay) (q : Nat) : Nat :=
  let n := if b.judged ≤ q then b.judged else 0
  ((List.range q).find? fun p => decide (n ≤ p) && b.stands p).getD q

/-- Whether the head of a queue was accepted behind a wide release or fence that no word has followed yet (R203). -/
def Bay.forksAhead (b : Bay) (q : Nat) : Bool := (b.head? q).any fun e => decide (b.forked < e.fork)

/-- A bay about to judge a queue; judging a queue again begins a cycle (R151, R380; log 70). -/
def State.judge (s : State) (b : BayNo) (q : Nat) : State :=
  (if (s.bay b).forksAhead q then s.joinFork b else s).modBay b fun y =>
    { y with judged := q + 1, wf := { y.wf with fresh := y.wf.fresh && decide (y.judged ≤ q) } }

/-- What happens next, and the state in which it happens: a shed cache that holds too many lines drops one (R29); a queue
is judged after the lower ones of its cycle; the rest as the agenda says, which then no longer lists it. -/
def State.nextAction (s : State) : Action × State :=
  match s.overfull, s.agenda with
  | some (n, key), _ => (.evict n key, s)
  | none, .issue b q :: t =>
    let p := (s.bay b).nextJudged q.toNat
    (.issue b (BitVec.ofNat 3 p), ({ s with agenda := if p = q.toNat then t else s.agenda } : State).judge b p)
  | none, a :: t => (a, { s with agenda := t })
  | none, [] => (s.idleAction, s)

/-! ### An instruction placed where the next step fetches it (log 30) -/

/-- A bay made ready for its next turn: it runs a task, holds no stop and takes no interrupt. -/
def Bay.readyToRun (b : Bay) : Bay :=
  let b1 : Bay := { b with task := some (b.task.getD 0), debugStop := false, saving := false,
                           wf := { b.wf with valid := false }, gen := { b.gen with wait := none, parked := false, mfault := false } }
  if b1.interrupt?.isSome then b1.modGen fun g => g.csrWr 0x304 0 else b1

/-- A generator instruction at the pc of the current bay: in the firmware store when no code stands behind its pc. -/
def State.placeGen (s : State) (w : W32) : State :=
  let b := s.cur
  let y := (s.bay b).readyToRun
  let y1 := if s.fetchFails y then y.modGen fun g => { g with mode := 3, pc := codePc 0 } else y
  let off := y1.gen.pc.toNat % 2 ^ 32
  let y2 : Bay := { y1 with icache := y1.icache.erase (y1.fetchKey off) }
  let s1 : State := { s with agenda := .gen b :: s.agenda, yard := { s.yard with dbg := { s.yard.dbg with cbp := [] } } }
  match y2.pcBuf with
  | none => s1.setBay b { y2 with firmware := y2.firmware.writeN off (leBytes w.toNat 4) }
  | some f =>
    ((s1.setBay b y2).dropLine (shedOf b) (lineKey y2.ctx f off)).homeStore y2.ctx f off (leBytes w.toNat 4)

/-- The bay that an engine word is placed in: one whose KIND has its engine. -/
def placeBay (w : W32) : BayNo :=
  if wordE w = 5 ∨ (wordE w = 0 ∧ w.getLsbD 23) then (if 32 ≤ (field w 23 6).toNat ∧ wordE w = 5 then 0xE0 else 0x80)
  else 0x00

/-- An engine word at the head of each queue it names. -/
def State.placeWord (s : State) (w : W32) (ps : List W32) : State :=
  let b := placeBay w
  let y := (s.bay b).readyToRun
  let e : Entry := { w := w, pfx := ps, seqNo := y.seqNo }
  let qs := match wordQueues w with
    | [] => [1]
    | l => l
  let y1 := qs.foldl (fun y q => y.modQueue q fun v => { v with ent := e :: v.ent })
    { y with seqNo := y.seqNo + 1, judged := qs.headD 1 }
  { s.setBay b { y1 with vx := { y1.vx with stopped := none } } with
    agenda := .issue b (BitVec.ofNat 3 (qs.headD 1)) :: s.agenda }

/-- A packet in the ring of submission queue 0. -/
def State.placePacket (s : State) (h : W32) (ds : List W32) : State :=
  let n := 1 + ds.length
  let x : Sq := { s.sq 0 with en := true, halt := false, stat := 0, lsize := 12, tail := BitVec.ofNat 22 n, head := 0,
                              levels := [{}], skip := 0, loop := none, waiting := false, image := none,
                              bpPass := true }
  let bytes := (h :: ds).flatMap fun d => leBytes d.toNat 4
  let s1 := s.modSq 0 fun _ => x
  { s1 with host := Mem.writeN s1.host (x.rbase.toNat * 4096) bytes, agenda := .packet 0 :: s.agenda }

/-- What a word of the opcode table carries, placed. -/
def State.place (s : State) (c : Code) : State :=
  match c with
  | .gen w => s.placeGen w
  | .word w ps => s.placeWord w ps
  | .packet h ds => s.placePacket h ds

end Sys2Proof.Machine
end

