-- ==== Sys2Proof/Machine/Step.lean ====
section
/-! DEFINITION. One step of the package, and where an instruction is placed so that the next step runs it. -/
namespace Sys2Proof.Machine

/-- A turn carried out: its instruction executed, or none. -/
def Turn.out : Turn → Host.Outcome State Fault Refusal
  | .stay s => .next s
  | .run i s => exec i s

/-- One step: the next action leaves the agenda and takes its turn. -/
def step (s : State) : Host.Outcome State Fault Refusal := (s.nextAction.2.doing s.nextAction.1).out

/-- The state with an instruction of the opcode table placed where the next step fetches it (log 30). -/
def State.withFetchWord (s : State) (nbits w : Nat) : State :=
  if nbits ≤ 32 then s.place (tableCode (BitVec.ofNat 32 w)) else s

end Sys2Proof.Machine
end

