-- ==== Sys2Proof/Safety.lean ====
section
/-! DEFINITION. The words of the statements: sound states, safe outcomes, completion, and what an instruction leaves as
it was. -/
namespace Sys2Proof.Machine

/-! ### Sound states -/

/-- The generator runs in one of the modes U, S and M, and MPP holds one of them (R108). -/
def Gen.ok (g : Gen) : Bool := g.mode != 2 && (g.csrRd 0x300).extractLsb' 11 2 != 2

/-- A bay whose memories are canonical and whose generator is sound. -/
def Bay.ok (b : Bay) : Bool := b.firmware.wf && b.store.wf && b.gen.ok

/-- A saved task's image is a sound bay. -/
def TaskSlot.ok (t : TaskSlot) : Bool :=
  match t.saved with
  | some v => v.img.ok
  | none => true

/-- A shed whose pool and cache are canonical, each line with its 64 bytes (R200). -/
def Shed.ok (d : Shed) : Bool :=
  d.pool.wf && Tab.risesFrom 0 d.cache && d.cache.all fun e => e.2.data.length == 64

/-- The entries of a table stand under rising keys below n. -/
def Tab.within {α : Type} (n : Nat) (m : Tab α) : Bool := Tab.risesFrom 0 m && m.all fun e => decide (e.1 < n)

/-- A sound state: every memory of the package, of its host and of its peers is in canonical form, every bay, running or
saved, is sound, and bays and task slots are listed once each. -/
def State.ok (s : State) : Bool :=
  Tab.risesFrom 0 s.mem && s.host.wf && s.bays.all (fun e => e.2.ok) && s.sheds.all (fun e => e.2.ok) &&
    s.yard.slots.all (fun e => e.2.ok) && Tab.within 256 s.bays && Tab.within 65536 s.yard.slots

/-! ### Completion -/

/-- Executing i answers a next state, and P holds of it. -/
def Completes (i : Instr) (s : State) (P : State → Prop) : Prop := ∃ t, exec i s = .next t ∧ P t

/-- What a register holds after v was written to it: x0 stays 0 (R37). -/
def result (rd : Reg) (v : Word) : Word := if rd = 0 then 0 else v

/-! ### Frames -/

/-- Every bay but b is as before. -/
def otherBays (b : BayNo) (s t : State) : Prop := ∀ c, c ≠ b → t.bay c = s.bay c

/-- Nothing changes outside bay b: no other bay, no shed, no memory, nothing of the yard. -/
def onlyBay (b : BayNo) (s t : State) : Prop := t = { s with bays := t.bays } ∧ otherBays b s t

/-- Nothing of a bay changes but its generator and the hang watchdog's count. -/
def onlyGen (y z : Bay) : Prop := z = { y with gen := z.gen, hangCount := z.hangCount, hangOnce := z.hangOnce }

/-- Nothing of a generator changes but its pc, what it waits for, the registers rds and the count of retired
instructions; in particular its mode, the Zazin CSRs and every other CSR stay. -/
def onlyRegs (rds : List Reg) (g h : Gen) : Prop :=
  h = { g with x := h.x, pc := h.pc, csr := h.csr, wait := h.wait } ∧ (∀ r, r ∉ rds → h.rd r = g.rd r) ∧
    ∀ n, n ≠ 0xB02 → h.csrRd n = g.csrRd n

/-- A generator retires an instruction with pc npc: only the registers rds may change. -/
def genRetires (rds : List Reg) (npc : Word) (g h : Gen) : Prop := onlyRegs rds g h ∧ h.pc = npc ∧ h.wait = none

/-- The generator of the current bay retires an instruction with pc npc, and all else but the registers rds stays: every
other bay, the bay outside its generator, memory, sheds, yard. -/
def retires (rds : List Reg) (npc : Word) (s t : State) : Prop :=
  onlyBay s.cur s t ∧ onlyGen (s.bay s.cur) (t.bay s.cur) ∧ genRetires rds npc (s.bay s.cur).gen (t.bay s.cur).gen

/-- Every byte of memory, at its home and in the host, reads as before. -/
def homesKept (s t : State) : Prop :=
  (∀ a, t.mem.find? a = s.mem.find? a) ∧ ∀ a, Mem.read t.host a = Mem.read s.host a

/-- The generator of the current bay retires as in `retires`, beside changes outside the bay. -/
def retiresBeside (rds : List Reg) (npc : Word) (s t : State) : Prop :=
  otherBays s.cur s t ∧ onlyGen (s.bay s.cur) (t.bay s.cur) ∧
    genRetires rds npc (s.bay s.cur).gen (t.bay s.cur).gen

/-- The generator of the current bay retires after a release, which no other bay feels; n more wide releases stand before the
words it will accept (R203). -/
def retiresReleased (rds : List Reg) (npc : Word) (n : Nat) (s t : State) : Prop :=
  let y := s.bay s.cur
  let z := t.bay s.cur
  otherBays s.cur s t ∧
    z = { y with gen := z.gen, hangCount := z.hangCount, hangOnce := z.hangOnce, forks := y.forks + n } ∧
    genRetires rds npc y.gen z.gen

/-- v is a dirty byte that a line of shed sh whose mask meets m has for address a of home memory, at a home that a path
reaches (R407). -/
def dirtyAt (s : State) (sh : BitVec 4) (m : BitVec 16) (a : Nat) (v : Byte) : Prop :=
  ∃ key l base k, (s.shed sh).cache.find? key = some l ∧ l.mask &&& m ≠ 0 ∧ k < 64 ∧ l.dirty.getLsbD k = true ∧
    s.home (keyCtx key) (keyBuf key) = .mem base ∧ s.unreachable (keyCtx key) (keyBuf key) = false ∧
    a = base + keyOff key + k ∧ v = l.data.getD k 0

/-- Memory accesses are all that happened outside the bays: shed caches and homes, and what the lofts count and cache. -/
def onlyMemory (s t : State) : Prop :=
  t = { s with bays := t.bays, sheds := t.sheds, mem := t.mem, host := t.host, lofts := t.lofts }

/-- The same, beside what copies have on its way to a home. -/
def onlyTraffic (s t : State) : Prop :=
  t = { s with bays := t.bays, sheds := t.sheds, mem := t.mem, host := t.host, lofts := t.lofts, reds := t.reds,
               hists := t.hists, sides := t.sides }

/-- Nothing that senders of p have sent is on its way to a home. -/
def arrivedAll (p : Sender → Bool) (t : State) : Prop :=
  (∀ r ∈ t.reds, p r.src = false) ∧ (∀ r ∈ t.hists, p r.src = false) ∧ ∀ r ∈ t.sides, p r.src = false

/-- A trace record of the current bay stands in its region, whose header it advanced, or the region was full and the loss
is counted; a context that does not trace logs nothing (R400). -/
def logged (record : BitVec 256) (s t : State) : Prop :=
  let c := (s.bay s.cur).ctx
  let x := s.ctx c
  let sh := shedOf s.cur
  let size := 2 ^ x.trlg.toNat * 1024
  let base := s.cur.toNat * size
  let next := leNat (s.load sh 15 c 0xFFFFFB base 8).1
  let dropped := leNat (s.load sh 15 c 0xFFFFFB (base + 8) 8).1
  (x.tren = 0 → t = { s with bays := t.bays }) ∧
    (x.tren = 1 → s.ok = true → base + size ≤ 2 ^ 48 → 64 ≤ next →
      (next + 32 ≤ size → (t.load sh 15 c 0xFFFFFB base 8).1 = leBytes (next + 32) 8 ∧
        (t.load sh 15 c 0xFFFFFB (base + next) 32).1 = leBytes record.toNat 32) ∧
      (size < next + 32 → (t.load sh 15 c 0xFFFFFB base 8).1 = leBytes next 8 ∧
        (t.load sh 15 c 0xFFFFFB (base + 8) 8).1 = leBytes (dropped + 1) 8))

/-- Every shed but one is as before. -/
def otherSheds (n : BitVec 4) (s t : State) : Prop := ∀ k, k ≠ n → t.shed k = s.shed k

/-- The bits of mstatus that S-mode traps and returns change: SIE, SPIE, SPP. -/
def statusBits : List Nat := [1, 5, 8]

/-- A generator has taken an exception (R141, R143): one raised below M mode whose cause medeleg delegates goes to S mode,
with sepc, scause, stval, SPP, SPIE and SIE written and the pc at stvec; any other goes to M mode in the same way. The
registers, the Zazin CSRs and every CSR not named stay. One that M-mode firmware raises, but for a breakpoint and its own
ECALL, is noted as its fault (R393; log 67). -/
def trapEntered (cause : Nat) (tval : Word) (g h : Gen) : Prop :=
  h = { g with pc := h.pc, mode := h.mode, csr := h.csr, wait := none,
               mfault := g.mfault || (g.mode == 3 && cause != 3 && cause != 11) } ∧
    if g.mode ≠ 3 ∧ (g.csrRd 0x302).getLsbD cause = true then
      h.mode = 1 ∧ h.pc = g.csrRd 0x105 &&& ~~~3#64 ∧ h.csrRd 0x141 = g.pc ∧ h.csrRd 0x142 = BitVec.ofNat 64 cause ∧
        h.csrRd 0x143 = tval ∧ (h.csrRd 0x300).getLsbD 8 = decide (g.mode ≠ 0) ∧
        (h.csrRd 0x300).getLsbD 5 = (g.csrRd 0x300).getLsbD 1 ∧ (h.csrRd 0x300).getLsbD 1 = false ∧
        (∀ k, k ∉ statusBits → (h.csrRd 0x300).getLsbD k = (g.csrRd 0x300).getLsbD k) ∧
        ∀ n, n ∉ [0x300, 0x141, 0x142, 0x143] → h.csrRd n = g.csrRd n
    else
      h.mode = 3 ∧ h.pc = g.csrRd 0x305 &&& ~~~3#64 ∧ h.csrRd 0x341 = g.pc ∧ h.csrRd 0x342 = BitVec.ofNat 64 cause ∧
        h.csrRd 0x343 = tval ∧ (h.csrRd 0x300).extractLsb' 11 2 = g.mode ∧
        (h.csrRd 0x300).getLsbD 7 = (g.csrRd 0x300).getLsbD 3 ∧ (h.csrRd 0x300).getLsbD 3 = false ∧
        (∀ k, k ∉ [3, 7, 11, 12] → (h.csrRd 0x300).getLsbD k = (g.csrRd 0x300).getLsbD k) ∧
        ∀ n, n ∉ [0x300, 0x341, 0x342, 0x343] → h.csrRd n = g.csrRd n

/-- An exception of the current bay's generator, which nothing else feels (R141, R142). -/
def traps (cause : Nat) (tval : Word) (s t : State) : Prop :=
  onlyBay s.cur s t ∧ t.bay s.cur = { s.bay s.cur with gen := (t.bay s.cur).gen } ∧
    trapEntered cause tval (s.bay s.cur).gen (t.bay s.cur).gen

/-- The generator of the current bay retires an instruction with pc npc and then takes an exception at that pc (R43). -/
def trapsAfter (cause : Nat) (tval : Word) (rds : List Reg) (npc : Word) (P : Gen → Prop) (s t : State) : Prop :=
  onlyBay s.cur s t ∧ onlyGen (s.bay s.cur) (t.bay s.cur) ∧
    ∃ h, genRetires rds npc (s.bay s.cur).gen h ∧ P h ∧ trapEntered cause tval h (t.bay s.cur).gen

/-- An exception as in `traps`, beside what the access before it did outside the bay. -/
def trapsBeside (cause : Nat) (tval : Word) (s t : State) : Prop :=
  otherBays s.cur s t ∧ t.bay s.cur = { s.bay s.cur with gen := (t.bay s.cur).gen } ∧
    trapEntered cause tval (s.bay s.cur).gen (t.bay s.cur).gen

/-- The generator of the current bay waits at its instruction i: nothing else changes (R115). -/
def waits (i : Instr) (s t : State) : Prop :=
  let y := s.bay s.cur
  onlyBay s.cur s t ∧ t.bay s.cur = { y with gen := { y.gen with wait := (t.bay s.cur).gen.wait } } ∧
    (t.bay s.cur).gen.wait = some (.poll i y.gen.waited)

/-- Nothing of a bay changes but its fairlead, its queues, its generator and the hang watchdog's count. -/
def onlyFairlead (y z : Bay) : Prop :=
  z = { y with gen := z.gen, hangCount := z.hangCount, hangOnce := z.hangOnce, pend := z.pend, eseq := z.eseq,
               seqNo := z.seqNo, mtx := z.mtx, vec := z.vec, cin := z.cin, cout := z.cout, cls := z.cls }

/-- Every named queue's list gains one entry at its end, and no other queue changes (R113). -/
def joins (qs : List Nat) (e : Entry) (y z : Bay) : Prop :=
  ∀ q, q < 5 → z.queue q = if q ∈ qs then { y.queue q with wait := (y.queue q).wait ++ [e] } else y.queue q

/-- The fairlead has accepted w from an instruction at offset off (R54, R113, R116 to R118): a prefix pends against its
target; any other word takes the pending prefixes of its engine, its provenance and the values of srseed and srstep, and
joins the list of every queue it names. -/
def accepts (w off : W32) (seed step : Word) (y z : Bay) : Prop :=
  let e := (w.extractLsb' 29 3).toNat
  onlyFairlead y z ∧
    if e = 6 then
      z.pend = y.pend ++ [((w.extractLsb' 26 3).toNat, w)] ∧ z.eseq = y.eseq ∧ ∀ q, q < 5 → z.queue q = y.queue q
    else
      z.pend = y.pend.filter (fun p => p.1 != e) ∧ z.eseq = y.eseq + 1 ∧
        joins (wordQueues w)
          { w := w, pfx := (y.pend.filter fun p => p.1 == e).map (·.2), eseq := y.eseq, off := off, seed := seed, step := step,
            seqNo := y.seqNo, fork := y.forks } y z

/-- Every queue that w names has room for it beside the words of `before` accepted in the same cycle (R115, R120). -/
def hasRoom (y : Bay) (before : List Nat) (w : W32) : Prop :=
  ∀ q ∈ wordQueues w, (y.queue q).wait.length + (if q ∈ before then 1 else 0) < 12

/-- ENDF of the current bay's task (R347). -/
def ended (s : State) : Prop := ∃ k, (s.bay s.cur).task = some k ∧ (s.slot k).endf = true

/-- The frame of a generator instruction that also writes the tile table: nothing else of the bay changes, and no other
bay, no shed and no memory. -/
def retiresTiles (rds : List Reg) (npc : Word) (s t : State) : Prop :=
  let y := s.bay s.cur
  let z := t.bay s.cur
  onlyBay s.cur s t ∧ genRetires rds npc y.gen z.gen ∧
    z = { y with gen := z.gen, hangCount := z.hangCount, hangOnce := z.hangOnce, tiles := z.tiles }

/-- The n lines from a are free at a level for bay b: within the level, and clear of every allocated tile there, of the bay
itself or, in the pool, of any bay of its shed (R148, R149). -/
def linesFree (s : State) (b : BayNo) (level : BitVec 1) (n a : Nat) : Prop :=
  a + n ≤ (if level = 0 then 262144 else 1047552) ∧
    ∀ c : BayNo, (if level = 0 then c = b else shedOf c = shedOf b) → ∀ e ∈ (s.bay c).tiles,
      e.2.alloc ≠ 0 → e.2.level = level → a + n ≤ e.2.base ∨ e.2.base + e.2.lines ≤ a

/-- The head of queue q leaves it, counted in ISSUED (R384); the tile table may change beside, and the hang count. -/
def headLeaves (q : Nat) (y z : Bay) : Prop :=
  z = { y with hangCount := z.hangCount, hangOnce := z.hangOnce, tiles := z.tiles,
               mtx := z.mtx, vec := z.vec, cin := z.cin, cout := z.cout, cls := z.cls } ∧
    ∀ k, k < 5 → z.queue k =
      if k = q then { y.queue q with ent := (y.queue q).ent.tail, issued := (y.queue q).issued + 1 } else y.queue k

/-- The generator of the current bay awaits the yard's acknowledgement of its instruction i with answer a (R173); of its bay
only the capability table may change beside, with the lookaside's entries dropped and a release counted (R171, R203). -/
def asks (i : Instr) (a : YardAnswer) (s t : State) : Prop :=
  let y := s.bay s.cur
  otherBays s.cur s t ∧
    t.bay s.cur = { y with gen := { y.gen with wait := some (.yard i a) }, caps := (t.bay s.cur).caps,
                           look := (t.bay s.cur).look, forks := (t.bay s.cur).forks } ∧
    ∀ e ∈ (t.bay s.cur).look, e ∈ y.look

/-- The capability table of the current bay is as before but for one slot. -/
def onlyCap (slot : Nat) (c : Option Cap) (s t : State) : Prop :=
  ∀ k, (t.bay s.cur).caps.find? k = if k = slot then c else (s.bay s.cur).caps.find? k

/-- Every buffer but one is as before. -/
def onlyBuf (c : CtxNo) (b : BufId) (f : Option Buf) (s t : State) : Prop :=
  ∀ k j, t.buf? k j = if k = c ∧ j = b then f else s.buf? k j

/-- Every task slot but one is as before. -/
def onlySlot (k : TaskId) (x : TaskSlot) (s t : State) : Prop := ∀ j, t.slot j = if j = k then x else s.slot j

/-- A task slot with a capability placed in argument slot j (R175, R350). -/
def withArg (x : TaskSlot) (j : Nat) (buf : BufId) (rights : BitVec 4) : TaskSlot :=
  { x with args := x.args.set j (0#36 ++ rights ++ buf), capm := x.capm ||| BitVec.ofNat 6 (2 ^ j) }

/-- Barrier n of bay b holds v and nothing else of the bays and sheds' barriers differs: of the bay's own barriers, or of
its shed's (R52, R208). -/
def onlyBarrier (b : BayNo) (n : Nat) (v : Barrier) (s t : State) : Prop :=
  if n < 64 then
    t.sheds = s.sheds ∧ ∀ k, Tab.get {} (t.bay b).bars k = if k = n then v else Tab.get {} (s.bay b).bars k
  else
    (t.bay b).bars = (s.bay b).bars ∧ otherSheds (shedOf b) s t ∧
      t.shed (shedOf b) = { s.shed (shedOf b) with bars := (t.shed (shedOf b)).bars } ∧
      ∀ k, Tab.get {} (t.shed (shedOf b)).bars k = if k = n - 64 then v else Tab.get {} (s.shed (shedOf b)).bars k

/-- A barrier that an agent of bay b may name (R52, R210). -/
def mayName (s : State) (b : BayNo) (n : Nat) : Prop :=
  n < 64 ∨ (n < 96 ∧ (Tab.get {} (s.shed (shedOf b)).bars (n - 64)).owner = some (s.bay b).ctx)

/-- What an arrival of agent A leaves of a barrier (R209). -/
def arrived (v : Barrier) (b : BayNo) (agent : BitVec 3) : Barrier :=
  if v.arr + 1 = v.exp then { v with gen := v.gen + 1, arr := 0, lastBay := b, lastAg := agent }
  else { v with arr := v.arr + 1, lastBay := b, lastAg := agent }

/-- Nothing of a bay changes but its agents' wait counts, its generator and the hang watchdog's count. -/
def onlyCounts (y z : Bay) : Prop :=
  z = { y with gen := z.gen, bars := z.bars, hangCount := z.hangCount, hangOnce := z.hangOnce, wcnt := z.wcnt,
               mtx := { y.mtx with wcnt := z.mtx.wcnt }, vec := { y.vec with wcnt := z.vec.wcnt },
               cin := { y.cin with wcnt := z.cin.wcnt }, cout := { y.cout with wcnt := z.cout.wcnt },
               cls := { y.cls with wcnt := z.cls.wcnt } }

/-- Ring n of the current bay's shed is r, and nothing else of the sheds differs. -/
def onlyRing (n : Nat) (r : Ring) (s t : State) : Prop :=
  otherSheds (shedOf s.cur) s t ∧
    t.shed (shedOf s.cur) = { s.shed (shedOf s.cur) with rings := (s.shed (shedOf s.cur)).rings.put n r }

/-- Nothing of a bay changes but its queues and the hang watchdog's count. -/
def onlyQueues (y z : Bay) : Prop :=
  z = { y with hangCount := z.hangCount, hangOnce := z.hangOnce, mtx := z.mtx, vec := z.vec, cin := z.cin,
               cout := z.cout, cls := z.cls }

/-- A queue without its head, which ISSUED counts (R384). -/
def popped (v : Queue) : Queue := { v with ent := v.ent.tail, issued := v.issued + 1 }

/-- The heads of the queues of a mask leave, and no other queue changes. -/
def headsLeave (mask : BitVec 5) (y z : Bay) : Prop :=
  ∀ q, q < 5 → z.queue q = if mask.getLsbD q then popped (y.queue q) else y.queue q

/-- The head e of queue q stands: it was judged in an earlier cycle or in this one, `now` (R421). -/
def headStands (q : Nat) (e : Entry) (now : Nat) (y z : Bay) : Prop :=
  onlyQueues y z ∧ ∀ p, p < 5 → z.queue p =
    if p = q then { y.queue q with ent := { e with since := some (e.since.getD now) } :: (y.queue q).ent.tail }
    else y.queue p

/-- The record of a word fault of queue q for entry e (R378). -/
def faultRecord (q : Nat) (e : Entry) (index : W32) (cause : Byte) (upc : W32) (at' : Where) : WordFault :=
  { valid := true, act := 0, cause := cause, npfx := BitVec.ofNat 2 e.pfx.length, qid := BitVec.ofNat 3 q, index := index,
    word := e.w, eseq := e.eseq, off := e.off, upc := upc, kind := at'.fields.1, id := at'.fields.2.1,
    pos := at'.fields.2.2, fresh := true }

/-- Queue q of a bay stops with a word fault (R377, R378): the record of entry e, and nothing else. -/
def wordFaults (q : Nat) (e : Entry) (index : W32) (cause : Byte) (upc : W32) (at' : Where) (y z : Bay) : Prop :=
  z = { y with wf := faultRecord q e index cause upc at' }

/-- Entry e, an engine word, stands at the head of queue q of the current bay, whose queues may issue (R377, R385, R399). -/
def atHead (q : Nat) (e : Entry) (s : State) : Prop :=
  let y := s.bay s.cur
  y.head? q = some e ∧ e.kind = .word ∧ y.task ≠ none ∧ y.wf.valid = false ∧ y.debugStop = false ∧ y.saving = false

/-- An engine word at the head of queue q of the current bay issues: it leaves the head, and of the bay only the parts
that f takes over from the state after may change beside, and the descriptor cache; outside the bay memory is read. -/
def issues (q : Nat) (f : Bay → Bay → Bay) (s t : State) : Prop :=
  let y := s.bay s.cur
  let z := t.bay s.cur
  otherBays s.cur s t ∧ onlyMemory s t ∧ homesKept s t ∧ otherSheds (shedOf s.cur) s t ∧
    onlyQueues (f { y with dcache := z.dcache } z) z ∧ headsLeave (BitVec.ofNat 5 (2 ^ q)) y z

/-- An engine word at the head is refused with a word fault at its start (R55, R377): beside reading descriptors nothing
else changes. -/
def refuses (q : Nat) (e : Entry) (cause : Byte) (at' : Where) (s t : State) : Prop :=
  let y := s.bay s.cur
  let z := t.bay s.cur
  otherBays s.cur s t ∧ onlyMemory s t ∧ homesKept s t ∧ otherSheds (shedOf s.cur) s t ∧
    wordFaults q e (y.queue q).issued cause 0 at' { y with dcache := z.dcache } z

/-- Two tiles that share no line. -/
def apart (u v : Tile) : Prop := u.level ≠ v.level ∨ u.base + u.lines ≤ v.base ∨ v.base + v.lines ≤ u.base

/-! ### Exact values -/

/-- Whether an exact value is a number. -/
def Val.finite : Val → Bool
  | .num _ _ _ => true
  | .nan => false
  | .inf _ => false

/-- The number that a finite exact value is; 0 for the others. -/
def Val.rat : Val → ℚ
  | .num neg m e => (if neg then -1 else 1) * (m : ℚ) * 2 ^ e
  | .nan => 0
  | .inf _ => 0

/-- The place of |v| on the grid of a format (R86): |v| stands between k and k + 1 steps of 2^x; a floating-point grid has
n + 1 significant bits, but for the subnormal numbers, and an integer grid is the integers. -/
def gridPlace (f : Fmt) (v : ℚ) (k : Nat) (x : Int) : Prop :=
  (k : ℚ) * 2 ^ x ≤ |v| ∧ |v| < ((k : ℚ) + 1) * 2 ^ x ∧
    if fmtIsFloat f then
      let least : Int := 1 - (fmtBias f : Int) - fracBits f
      least ≤ x ∧ k < 2 ^ (fracBits f + 1) ∧ (x = least ∨ 2 ^ fracBits f ≤ k)
    else x = 0

/-- Whether a mode rounds away from zero, d of a step above k steps, 0 < d (R85, R86). -/
def goesAway (mode keyed k : Nat) (neg : Bool) (d : ℚ) : Prop :=
  match mode with
  | 0 => 1 / 2 < d ∨ (d = 1 / 2 ∧ k % 2 = 1)
  | 1 => False
  | 2 => neg = true
  | 3 => neg = false
  | 4 => 1 / 2 ≤ d
  | 5 => (keyed : Int) < ⌊d * 2 ^ 24⌋
  | _ => k % 2 = 0

/-- The largest finite number of a floating-point format (R76, R77). -/
def largestOf (f : Fmt) : ℚ :=
  if f = Fmt.e4m3 then 448
  else (2 ^ (fracBits f + 1) - 1) * 2 ^ ((2 ^ (fmtBits f - 1 - fracBits f) : Int) - 2 - fmtBias f - fracBits f)

/-- The least and the greatest integer of an integer format (R76). -/
def intBounds (f : Fmt) : Int × Int :=
  if fmtIsSigned f then (-(2 ^ (fmtBits f - 1)), 2 ^ (fmtBits f - 1) - 1) else (0, 2 ^ fmtBits f - 1)

/-- A rounded magnitude as an element of a floating-point format (R83, R84, R86), and the flags that it raises. -/
def floatRounded (f : Fmt) (mode : Nat) (v d mag : ℚ) (o : Res) : Prop :=
  let neg := decide (v < 0)
  let big := largestOf f < mag
  let toInf := mode = 0 ∨ mode = 4 ∨ mode = 5 ∨ (mode = 2 ∧ neg = true) ∨ (mode = 3 ∧ neg = false)
  let u := decodeVal f o.bits
  o.bits < 2 ^ fmtBits f ∧ u.isNeg = neg ∧ o.satc = 0 ∧
    (¬ big → u.finite = true ∧ |u.rat| = mag) ∧
    (big → toInf → f ≠ Fmt.e4m3 → u = .inf neg) ∧
    (big → ¬ toInf ∨ f = Fmt.e4m3 → u.finite = true ∧ |u.rat| = largestOf f) ∧
    o.flags = (if 0 < d ∨ largestOf f < mag then flNX else 0) |||
      (if 0 < d ∧ |v| < 2 ^ (1 - (fmtBias f : Int)) then flUF else 0) ||| (if largestOf f < mag then flOF else 0)

/-- A rounded magnitude as an element of an integer format (R86): clamped, with SAT, NX and one count when it was. -/
def intRounded (f : Fmt) (v d mag : ℚ) (o : Res) : Prop :=
  let c := intOf f o.bits
  o.bits < 2 ^ fmtBits f ∧ ∃ z : Int, (z : ℚ) = (if v < 0 then -mag else mag) ∧
    c = max (intBounds f).1 (min (intBounds f).2 z) ∧ (o.satc = if c = z then 0 else 1) ∧
    o.flags = (if 0 < d ∨ c ≠ z then flNX else 0) ||| (if c = z then 0 else flSAT)

/-- o is round(v, f, mode) of R86 for a number v that is not 0, with the flags and counts that rounding raises. -/
def roundsTo (f : Fmt) (mode keyed : Nat) (v : ℚ) (o : Res) : Prop :=
  ∃ (k r : Nat) (x : Int), gridPlace f v k x ∧
    let d : ℚ := |v| / 2 ^ x - k
    let away := 0 < d ∧ goesAway mode keyed k (decide (v < 0)) d
    (away → r = k + 1) ∧ (¬ away → r = k) ∧
      if fmtIsFloat f then floatRounded f mode v d (r * 2 ^ x) o else intRounded f v d (r * 2 ^ x) o

/-- o is the canonical NaN with the given flags. -/
def isNaNRes (f : Fmt) (flags : Byte) (o : Res) : Prop := o = { bits := canonNaN f, flags := flags, satc := 0 }

/-- o is the conversion of an exact value to a format (R82): NaN, infinity, zero, or a number rounded once. That an I32
value of more than 24 significant bits is rounded in FP32, too, is the model's reading (log 71). -/
def convertsTo (f : Fmt) (mode keyed : Nat) (v : Val) (o : Res) : Prop :=
  match v with
  | .nan => if fmtIsFloat f then isNaNRes f flNANIN o else o = { bits := 0, flags := flNV ||| flNANIN, satc := 0 }
  | .inf neg =>
    o.bits < 2 ^ fmtBits f ∧ o.satc = 0 ∧
      if fmtIsFloat f = false then
        intOf f o.bits = (if neg then (intBounds f).1 else (intBounds f).2) ∧ o.flags = flNV ||| flNX
      else if f = Fmt.e4m3 then
        (decodeVal f o.bits).finite = true ∧ (decodeVal f o.bits).rat = (if neg then -448 else 448) ∧ o.flags = flOF ||| flNX
      else decodeVal f o.bits = .inf neg ∧ o.flags = 0
  | .num neg m _ =>
    (m = 0 → o.bits < 2 ^ fmtBits f ∧ o.flags = 0 ∧ o.satc = 0 ∧
      if fmtIsFloat f then
        (decodeVal f o.bits).finite = true ∧ (decodeVal f o.bits).rat = 0 ∧ (decodeVal f o.bits).isNeg = neg
      else o.bits = 0) ∧
    (m ≠ 0 → roundsTo f mode keyed v.rat o)

/-- o is the floating-point result of vx.add, vx.sub, vx.mul or vx.fma (op 0 to 3) on a, b and, for vx.fma, c (R79, R290,
R291): the exact sum or product rounded once; an exact zero with its sign; an infinity; or the canonical NaN, with NANIN
for a NaN that was read and NV for 0 × ∞ and for infinities of both signs. -/
def floatArith (f : Fmt) (op mode keyed : Nat) (a b c : Val) (o : Res) : Prop :=
  let isInf (v : Val) : Prop := v.finite = false ∧ v.isNaN = false
  let times := decide (2 ≤ op)
  let last := if op = 3 then c else b
  let n1 := if times then a.isNeg != b.isNeg else a.isNeg
  let n2 := if op = 1 then !b.isNeg else last.isNeg
  let i1 := isInf a ∨ (times = true ∧ isInf b)
  let i2 := op ≠ 2 ∧ isInf last
  let q1 := if times then a.rat * b.rat else a.rat
  let q2 := if op = 2 then 0 else if op = 1 then -b.rat else last.rat
  let nan := a.isNaN || b.isNaN || (decide (op = 3) && c.isNaN)
  let bad := times = true ∧ ((a.isZero = true ∧ isInf b) ∨ (isInf a ∧ b.isZero = true))
  let zeroNeg := if op = 2 then n1 else (n1 && n2) || (decide (mode = 2) && (n1 != n2))
  (nan = true → ¬ bad → isNaNRes f flNANIN o) ∧
    (nan = true → bad → isNaNRes f (flNANIN ||| flNV) o) ∧
    (nan = false → bad → isNaNRes f flNV o) ∧
    (nan = false → ¬ bad → i1 → i2 → n1 ≠ n2 → isNaNRes f flNV o) ∧
    (nan = false → ¬ bad → i1 → ¬ i2 ∨ n1 = n2 → decodeVal f o.bits = .inf n1 ∧ o.bits < 2 ^ fmtBits f ∧ o.flags = 0) ∧
    (nan = false → ¬ i1 → i2 → decodeVal f o.bits = .inf n2 ∧ o.bits < 2 ^ fmtBits f ∧ o.flags = 0) ∧
    (nan = false → ¬ i1 → ¬ i2 → q1 + q2 ≠ 0 → roundsTo f mode keyed (q1 + q2) o) ∧
    (nan = false → ¬ i1 → ¬ i2 → q1 + q2 = 0 → o = { bits := if zeroNeg then 2 ^ (fmtBits f - 1) else 0, flags := 0, satc := 0 })

/-- Where an FP32 pattern stands in the order of R229: below, among or above the finite numbers. -/
def totalRank (h : Nat) : Int :=
  match decodeVal Fmt.fp32 h with
  | .nan => if 2 ^ 31 ≤ h then -2 else 2
  | .inf neg => if neg then -1 else 1
  | .num _ _ _ => 0

/-- FP32 pattern h comes before k in the order −NaN < −∞ < … < −0 < +0 < … < +∞ < +NaN (R229, R341); NaNs of one sign come
in the order of their keys. -/
def totalBelow (h k : Nat) : Prop :=
  let u := decodeVal Fmt.fp32 h
  let v := decodeVal Fmt.fp32 k
  totalRank h < totalRank k ∨
    (totalRank h = totalRank k ∧
      if totalRank h = 0 then u.rat < v.rat ∨ (u.rat = v.rat ∧ u.isNeg = true ∧ v.isNeg = false)
      else if 2 ^ 31 ≤ h then k < h else h < k)

/-- The packed order of R229: the high halves as FP32 patterns, then the low halves unsigned. -/
def packedBelow (a b : Nat) : Prop :=
  totalBelow (a / 2 ^ 32) (b / 2 ^ 32) ∨ (a / 2 ^ 32 = b / 2 ^ 32 ∧ a % 2 ^ 32 < b % 2 ^ 32)

/-- What a reduction or scan makes of the elements xs (R297): the sum, wrapped or clamped by O for integers and rounded
once for floating-point numbers, or the least or greatest, the identity of no elements. -/
def combined (w : VxWord) (keyed : Nat) (xs : List Nat) (v : Nat) : Prop :=
  let n := fmtBits w.t
  let lo : Int := if fmtIsSigned w.t then -(2 ^ (n - 1)) else 0
  let hi : Int := if fmtIsSigned w.t then 2 ^ (n - 1) - 1 else 2 ^ n - 1
  let ints := xs.map (intOf w.t)
  let exact := (xs.map fun x => (decodeVal w.t x).rat).sum
  (fmtIA w.t = true →
    (w.op = 0x28 ∨ w.op = 0x2B → (w.r = 0 → v < 2 ^ n ∧ (v : Int) % 2 ^ n = ints.sum % 2 ^ n) ∧
      (w.r = 1 → intOf w.t v = max lo (min hi ints.sum))) ∧
    (w.op = 0x29 ∨ w.op = 0x2C → intOf w.t v = ints.foldl min hi) ∧
    (w.op = 0x2A ∨ w.op = 0x2D → intOf w.t v = ints.foldl max lo)) ∧
  (fmtFA w.t = true → (∀ x ∈ xs, (decodeVal w.t x).finite = true) →
    (w.op = 0x28 ∨ w.op = 0x2B → (exact = 0 → v % 2 ^ (n - 1) = 0) ∧
      (exact ≠ 0 → ∃ (m : Nat) (e : Int), (if exact < 0 then -1 else 1) * (m : ℚ) * 2 ^ e = exact ∧
        v = (roundTo w.t w.r keyed (decide (exact < 0)) m e).bits)) ∧
    (w.op = 0x29 ∨ w.op = 0x2C → (xs = [] → v = infPat w.t) ∧
      (xs ≠ [] → v ∈ xs ∧ ∀ x ∈ xs, belowVal (decodeVal w.t x) (decodeVal w.t v) = false)) ∧
    (w.op = 0x2A ∨ w.op = 0x2D → (xs = [] → v = 2 ^ (n - 1) + infPat w.t) ∧
      (xs ≠ [] → v ∈ xs ∧ ∀ x ∈ xs, belowVal (decodeVal w.t v) (decodeVal w.t x) = false)))

/-- An exact value as a class-engine word writes it (R337): an integer wrapped or clamped by SAT, a number of a
floating-point format rounded once. -/
def rounded (ints : Bool) (f : Fmt) (rnd sat keyed : Nat) (exact : ℚ) (v : Nat) : Prop :=
  let n := fmtBits f
  let lo : Int := if fmtIsSigned f then -(2 ^ (n - 1)) else 0
  let hi : Int := if fmtIsSigned f then 2 ^ (n - 1) - 1 else 2 ^ n - 1
  if ints = true then
    ∃ z : Int, (z : ℚ) = exact ∧ (sat = 0 → v < 2 ^ n ∧ (v : Int) % 2 ^ n = z % 2 ^ n) ∧
      (sat = 1 → intOf f v = max lo (min hi z))
  else
    (exact = 0 → v % 2 ^ (n - 1) = 0) ∧ (exact ≠ 0 → ∃ (m : Nat) (e : Int),
      (if exact < 0 then -1 else 1) * (m : ℚ) * 2 ^ e = exact ∧ v = (roundTo f rnd keyed (decide (exact < 0)) m e).bits)

/-- R is the merge of A and B (R344): it takes from A unless B's head goes before A's. -/
def mergeOf (before : KxPair → KxPair → Bool) (A B : List KxPair) : List KxPair → Prop
  | [] => A = [] ∧ B = []
  | c :: R =>
    (∃ A', A = c :: A' ∧ (∀ b, B.head? = some b → before b c = false) ∧ mergeOf before A' B R) ∨
      ∃ B', B = c :: B' ∧ (∀ a, A.head? = some a → before c a = true) ∧ mergeOf before A B' R

/-! ### Tasks, interrupts, queues of packets -/

/-- An interrupt of a number that the generator takes at its boundary (R144, R377, R390): to S mode when delegated, else
to M mode; the pc is BASE, or under vectored mode BASE + 4 × the number. -/
def interruptEntered (n : Nat) (g h : Gen) : Prop :=
  let deleg := (g.csrRd 0x303).getLsbD n
  let tvec := g.csrRd (if deleg then 0x105 else 0x305)
  h = { g with pc := h.pc, mode := if deleg then 1 else 3, csr := h.csr, wait := none, parked := false } ∧
    h.pc = (tvec &&& ~~~3#64) + (if tvec.extractLsb' 0 2 = 1 then BitVec.ofNat 64 (4 * n) else 0) ∧
    h.csrRd (if deleg then 0x141 else 0x341) = g.pc ∧
    h.csrRd (if deleg then 0x142 else 0x342) = BitVec.ofNat 64 (2 ^ 63 + n) ∧
    h.csrRd (if deleg then 0x143 else 0x343) = 0 ∧
    (if deleg then
      (h.csrRd 0x300).getLsbD 8 = decide (g.mode ≠ 0) ∧ (h.csrRd 0x300).getLsbD 5 = (g.csrRd 0x300).getLsbD 1 ∧
        (h.csrRd 0x300).getLsbD 1 = false
    else
      (h.csrRd 0x300).extractLsb' 11 2 = g.mode ∧ (h.csrRd 0x300).getLsbD 7 = (g.csrRd 0x300).getLsbD 3 ∧
        (h.csrRd 0x300).getLsbD 3 = false) ∧
    ∀ k, k ∉ (if deleg then [0x300, 0x141, 0x142, 0x143] else [0x300, 0x341, 0x342, 0x343]) → h.csrRd k = g.csrRd k

/-- The generator of the current bay parks at its pc, and the instruction counts as retired (R365). -/
def parks (g h : Gen) : Prop :=
  h = { g with csr := h.csr, wait := none, parked := true } ∧ ∀ n, n ≠ 0xB02 → h.csrRd n = g.csrRd n

/-- A bay whose task is gone (R153, R168, R361, R366): no tile, no capability, no queued or executing word, and the
generator at reset but for its standard CSRs. -/
def vacated (y z : Bay) : Prop :=
  z = { Bay.reset with ctx := y.ctx, lastCtx := y.lastCtx, gen := { csr := y.gen.csr }, firmware := y.firmware,
                       store := z.store, mx := { z.mx with arrays := [], port := none }, debugStop := y.debugStop }

/-- No word executes in a bay, no vector write is in flight, the counter cache is empty, and no capability is held. -/
def quiet (y : Bay) : Prop :=
  y.mx.arrays = [] ∧ y.mx.port = none ∧ y.vx.pend = [] ∧ y.vx.stopped = none ∧ y.cpIn.jobs = [] ∧ y.cpOut.jobs = [] ∧
    y.kx.job = none ∧ y.counters = [] ∧ y.caps = []

/-- An event record of a KIND stands in a context's ring, whose head it advanced; or the ring was full and the loss is
counted (R397). -/
def recorded (c : CtxNo) (kind : Nat) (s t : State) : Prop :=
  let x := s.ctx c
  let size := 2 ^ x.evlg.toNat
  let r := leNat (t.homeBytes c 0xFFFFFC (x.evhead.toNat % size * 32) 32)
  if (x.evhead - x.evtail).toNat < size then
    (t.ctx c).evhead = x.evhead + 1 ∧ (t.ctx c).evdrop = x.evdrop ∧ t.msix = s.msix ++ [(x.func, 66 + c.toNat)] ∧
      (t.home c 0xFFFFFC ≠ .table → r % 2 ^ 64 % 256 = kind ∧ r / 2 ^ 192 = s.now % 2 ^ 64)
  else (t.ctx c).evhead = x.evhead ∧ (t.ctx c).evdrop = x.evdrop + 1 ∧ t.msix = s.msix

/-- Every task of a context has ended (R392): no bay runs one, no slot holds one, no decrement of one is under way; its
queues are disabled, its grants revoked, and each of its graphs that the kill took tasks from ends without an addition
(R362); the bays and slots of other contexts are as before. -/
def contextEnded (c : CtxNo) (s t : State) : Prop :=
  (∀ b, (t.bay b).task = none ∨ (t.bay b).ctx ≠ c) ∧ (∀ k, (t.slot k).state = .free ∨ (t.slot k).ctx ≠ c) ∧
    (∀ d ∈ t.yard.decs, d.ctx ≠ c) ∧ (∀ q, (t.sq q).ctx = c → (t.sq q).en = false) ∧
    (∀ n, (∀ e ∈ (t.shed n).bars, e.2.owner ≠ some c) ∧ ∀ e ∈ (t.shed n).rings, e.2.owner ≠ some c) ∧
    (∀ g x, s.yard.graphs.find? g = some x → t.yard.graphs.find? g =
      some (if x.ctx = c ∧ (∃ k, (s.slot k).state ≠ .free ∧ (s.slot k).graph.toNat = g) then { x with killed := true }
        else x)) ∧
    (∀ b, (s.bay b).task = none ∨ (s.bay b).ctx ≠ c → t.bay b = s.bay b) ∧
    ∀ k, (s.slot k).ctx ≠ c → t.slot k = s.slot k

/-- The place of a free bay for a task (R359): live, of the KIND, without a task, and admitted by AFF. -/
def bayAdmits (s : State) (kind : Nat) (aff : BitVec 16) (b : BayNo) : Prop :=
  bayKind b = kind ∧ s.live b = true ∧ (s.bay b).task = none ∧ (aff = 0 ∨ aff.getLsbD (shedOf b).toNat = true)

/-- Nothing changes but submission queue q. -/
def onlySq (q : BitVec 6) (x : Sq) (s t : State) : Prop :=
  t = { s with yard := { s.yard with sqs := t.yard.sqs } } ∧ ∀ p, t.sq p = if p = q then x else s.sq p

/-- Nothing changes but the debug block's registers (R398), and of those only what f leaves open. -/
def onlyDebug (f : Debug → Debug → Prop) (s t : State) : Prop :=
  t = { s with yard := { s.yard with dbg := t.yard.dbg } } ∧ f s.yard.dbg t.yard.dbg

/-- The 64 bits from bit 64 * h of a wider register take v, in the writable bits; every bit that is not writable reads 0. -/
def halfWritten {w : Nat} (writable : Nat → Bool) (h : Nat) (v : Word) (old new : BitVec w) : Prop :=
  ∀ i, i < w → new.getLsbD i = (writable i && if i / 64 = h then v.getLsbD (i % 64) else old.getLsbD i)

/-- Register n of a file of debug registers takes the write of a half, and the first `size` others stay. -/
def fileWritten {w : Nat} (size : Nat) (writable : Nat → Bool) (n h : Nat) (v : Word) (old new : List (BitVec w)) : Prop :=
  halfWritten writable h v (old.getD n 0) (new.getD n 0) ∧ ∀ m, m < size → m ≠ n → new.getD m 0 = old.getD m 0

/-- A submission queue steps past a packet of n dwords (R369, R371, R373): at level 0 outside a loop HEAD follows; in an
indirect buffer the level above goes on at its end; in a loop's body the last packet of a pass begins the next. -/
def stepsPast (n : Nat) (x z : Sq) : Prop :=
  z = { x with levels := z.levels, skip := z.skip, loop := z.loop, head := z.head, waiting := false, image := none,
               bpPass := false } ∧
    ∀ (ls : List Level) (l : Level), x.levels = ls ++ [l] →
      let pos := if l.buf = none then (l.pos + n) % 2 ^ x.lsize.toNat else l.pos + n
      let past : Level := { l with pos := pos, win := l.win.drop n }
      (x.loop = none → ls = [] → z.levels = [past] ∧ z.skip = x.skip ∧ z.loop = none ∧ z.head = BitVec.ofNat 22 pos) ∧
      (x.loop = none → ls ≠ [] → pos < l.len → z.levels = ls ++ [past] ∧ z.skip = x.skip ∧ z.loop = none ∧ z.head = x.head) ∧
      (x.loop = none → l.len ≤ pos → ls.length = 1 →
        z.levels = ls ∧ z.skip = 0 ∧ z.loop = none ∧ ∀ l0, ls = [l0] → z.head = BitVec.ofNat 22 l0.pos) ∧
      ∀ lp, x.loop = some lp → lp.level + 1 = x.levels.length → ls = [] →
        (1 < lp.left → z.levels = [past] ∧ z.skip = x.skip ∧ z.loop = some { lp with left := lp.left - 1 } ∧ z.head = x.head) ∧
        (lp.left ≤ 1 → lp.pass + 1 < lp.passes →
          z.levels = [{ past with pos := lp.start, win := [] }] ∧ z.skip = 0 ∧ z.head = x.head ∧
            z.loop = some { lp with left := lp.count, pass := lp.pass + 1 }) ∧
        (lp.left ≤ 1 → lp.passes ≤ lp.pass + 1 →
          z.levels = [past] ∧ z.skip = 0 ∧ z.loop = none ∧ z.head = BitVec.ofNat 22 pos)

/-- The packet of n dwords at which the current queue stands ends; nothing else of the yard changes. -/
def packetEnds (n : Nat) (s t : State) : Prop :=
  stepsPast n (s.sq s.curSq) (t.sq s.curSq) ∧ (∀ q, q ≠ s.curSq → t.sq q = s.sq q) ∧
    t.yard = { s.yard with sqs := t.yard.sqs }

/-- The current queue stops with a cause at its packet, and its vector is raised (R375). -/
def queueStops (stat : Byte) (s t : State) : Prop :=
  let x := s.sq s.curSq
  t = { s with yard := { s.yard with sqs := t.yard.sqs }, msix := s.msix ++ [(x.func, 2 + s.curSq.toNat)] } ∧
    (∀ q, q ≠ s.curSq → t.sq q = s.sq q) ∧
    ∃ soff slev, t.sq s.curSq = { x with stat := stat, bpn := 0, soff := soff, slev := slev, waiting := false,
                                              image := none } ∧
      ∀ (l : Level), x.levels = [l] → l.buf = none → soff = BitVec.ofNat 30 l.pos ∧ slev = 0

/-- The packet at which the current queue stands waits: it has begun, and nothing else changes. -/
def packetWaits (s t : State) : Prop := onlySq s.curSq { s.sq s.curSq with waiting := true } s t

/-- Outside n bytes at an offset of a buffer nothing of memory changes, at any home. -/
def onlyHome (c : CtxNo) (b : BufId) (off n : Nat) (s t : State) : Prop :=
  match s.home c b with
  | .table => t.mem = s.mem ∧ t.host = s.host
  | .host bus => t.mem = s.mem ∧ ∀ p, ¬ (bus + off ≤ p ∧ p < bus + off + n) → Mem.read t.host p = Mem.read s.host p
  | .mem base => t.host = s.host ∧ ∀ p, ¬ (base + off ≤ p ∧ p < base + off + n) → t.mem.find? p = s.mem.find? p

/-- A packet address may be used for n bytes (R375, R422): a live buffer, in bounds, aligned, with the rights, in reach. -/
def usable (s : State) (a : PAddr) (n align : Nat) (need : BitVec 4) : Prop :=
  ∃ f, s.buf? (s.sq s.curSq).ctx a.buf = some f ∧ a.off.toNat + n ≤ f.size ∧ a.off.toNat % align = 0 ∧
    readerRights a.buf f &&& need = need ∧ s.unreachable (s.sq s.curSq).ctx a.buf = false

/-- The comparisons of PRED and WAIT (R371): equal, not equal, unsigned less and not less, signed the same, bits in common. -/
def compares (cmp : BitVec 3) (w v : Word) : Prop :=
  match cmp.toNat with
  | 0 => w = v
  | 1 => w ≠ v
  | 2 => w.toNat < v.toNat
  | 3 => v.toNat ≤ w.toNat
  | 4 => w.toInt < v.toInt
  | 5 => v.toInt ≤ w.toInt
  | _ => ∃ k, w.getLsbD k = true ∧ v.getLsbD k = true

/-! ### What instructions access -/

/-- The bits of a Zazin CSR that a write reaches (R112, R378). -/
def zazinField (n : Nat) : Word :=
  match n with
  | 0x800 => 0xF
  | 0x801 => 0x7FFF
  | 0x802 | 0x803 => 0xFFFFFFFFFFFFFFFF
  | 0x5C0 => 0x6000000000000000
  | 0x5C7 => 0xFFFFFFFF
  | 0x5C8 => 0xFC01FFFFFFFFFFF8
  | _ => 0

/-- The bits of a standard CSR, or of the one behind a view, that a write of v reaches (log 1): mstatus.MPP takes no
reserved mode, sstatus is a view of mstatus, and sie and sip show the interrupts that mideleg delegates. -/
def csrField (g : Gen) (n : Nat) (v : Word) : Word :=
  match n with
  | 0x100 => 0x122
  | 0x104 => g.csrRd 0x303 &&& 0x30000
  | 0x144 => g.csrRd 0x303 &&& 0x20000
  | 0x300 => if v.extractLsb' 11 2 = 2 then 0x7201AA else 0x7219AA
  | _ => csrMask n

/-- The Zazin CSRs (R41). -/
def zazinCsrs : List Nat :=
  [0x800, 0x801, 0x802, 0x803, 0xCC0, 0xCC1, 0xCC2, 0x5C0, 0x5C1, 0x5C2, 0x5C3, 0x5C4, 0x5C5, 0x5C6, 0x5C7, 0x5C8]

/-- A load: its width, destination, address and ordering class (R37, R133, R190); none for any other instruction. -/
def loadForm (i : Instr) (g : Gen) : Option (LoadW × Reg × Word × BitVec 4) :=
  match i with
  | .rv64Load x rd rs1 imm => some (x, rd, g.rd rs1 + sext imm, g.zclass)
  | .lbC rd rs1 off cls => some (.b, rd, g.rd rs1 + sext off, cls)
  | .lhC rd rs1 off cls => some (.h, rd, g.rd rs1 + sext off, cls)
  | .lwC rd rs1 off cls => some (.w, rd, g.rd rs1 + sext off, cls)
  | .ldC rd rs1 off cls => some (.d, rd, g.rd rs1 + sext off, cls)
  | .lbuC rd rs1 off cls => some (.bu, rd, g.rd rs1 + sext off, cls)
  | .lhuC rd rs1 off cls => some (.hu, rd, g.rd rs1 + sext off, cls)
  | .lwuC rd rs1 off cls => some (.wu, rd, g.rd rs1 + sext off, cls)
  | _ => none

/-- A store: its width, value, address and ordering class; none for any other instruction. -/
def storeForm (i : Instr) (g : Gen) : Option (StoreW × Word × Word × BitVec 4) :=
  match i with
  | .rv64Store x rs2 rs1 imm => some (x, g.rd rs2, g.rd rs1 + sext imm, g.zclass)
  | .sbC rs2 rs1 off cls => some (.b, g.rd rs2, g.rd rs1 + sext off, cls)
  | .shC rs2 rs1 off cls => some (.h, g.rd rs2, g.rd rs1 + sext off, cls)
  | .swC rs2 rs1 off cls => some (.w, g.rd rs2, g.rd rs1 + sext off, cls)
  | .sdC rs2 rs1 off cls => some (.d, g.rd rs2, g.rd rs1 + sext off, cls)
  | _ => none

/-- LD.C and ST.C, with the class they name. -/
def namedClass (i : Instr) : Option (BitVec 4) :=
  match i with
  | .lbC _ _ _ cls | .lhC _ _ _ cls | .lwC _ _ _ cls | .ldC _ _ _ cls | .lbuC _ _ _ cls | .lhuC _ _ _ cls
  | .lwuC _ _ _ cls | .sbC _ _ _ cls | .shC _ _ _ cls | .swC _ _ _ cls | .sdC _ _ _ cls => some cls
  | _ => none

/-- Whether the generator's mode may make the access: class 15 named by LD.C or ST.C is for M mode (R46). -/
def classOk (i : Instr) (g : Gen) : Bool := namedClass i != some 15 || g.mode == 3

/-! ### What carries an instruction (R37, R50, R61) -/

/-- The number spaces of encodings. -/
inductive Carrier where
  | generator
  | engine
  | packet
  | nothing
deriving DecidableEq, Repr

/-- What carries an instruction: a generator's word, an engine word with its prefixes, a packet; nothing for an event, a yard
command, an action of host or link, and the illegal instruction, which stands for the encodings that no row takes. -/
def carrier (i : Instr) : Carrier :=
  match i with
  | .emit .. | .emit2 .. | .emitnb .. | .emits .. | .emitq .. | .accrd .. | .bfext .. | .bfins .. | .bbc ..
  | .trmark .. | .lbC .. | .lhC .. | .lwC .. | .ldC .. | .lbuC .. | .lhuC .. | .lwuC .. | .sbC .. | .shC .. | .swC ..
  | .sdC .. | .rv64Load .. | .rv64Store .. | .rv64Amo .. | .jumpBranch .. | .fence .. | .fenceI .. | .ecall ..
  | .ebreak .. | .xret .. | .csrAccess .. | .fenceCm .. | .talloc .. | .tfree .. | .tinfo .. | .twait .. | .tstat ..
  | .btst .. | .capNew .. | .capShare .. | .capXfer .. | .capDrop .. | .capNarrow .. | .capInfo .. | .tdSet ..
  | .tdGet .. | .tdBind .. | .barInit .. | .barArrive .. | .barWait .. | .ringPut .. | .ringGet .. | .ringDone ..
  | .amoPkmin .. | .amoPkmax .. | .taskSpawn .. | .taskDec .. | .taskEnd .. | .taskAbort .. | .taskArg ..
  | .taskId .. | .bayResume .. | .bayFlush .. | .qstat .. | .integerAlu .. | .wfi .. => .generator
  | .syNop .. | .syNotify .. | .syArrive .. | .syWait .. | .syRdv .. | .syFence .. | .sySlip .. | .syRound ..
  | .mxCfg .. | .mxMma .. | .mxMmw .. | .mxMmh .. | .mxLdw .. | .mxInit .. | .mxZero .. | .mxDrain .. | .mxRq ..
  | .mxSnap .. | .vxAdd .. | .vxSub .. | .vxMul .. | .vxFma .. | .vxMin .. | .vxMax .. | .vxAbs .. | .vxNeg ..
  | .vxAnd .. | .vxOr .. | .vxXor .. | .vxNot .. | .vxShl .. | .vxShr .. | .vxSra .. | .vxCeq .. | .vxCne ..
  | .vxClt .. | .vxCle .. | .vxSel .. | .vxCvt .. | .vxMov .. | .vxSet .. | .vxExp2 .. | .vxLog2 .. | .vxRcp ..
  | .vxRsqrt .. | .vxSqrt .. | .vxSin .. | .vxCos .. | .vxTanh .. | .vxRsum .. | .vxRmin .. | .vxRmax .. | .vxSsum ..
  | .vxSmin .. | .vxSmax .. | .vxGath .. | .vxScat .. | .vxCmpct .. | .vxHist .. | .vxSlot .. | .vxSeg .. | .vxChk ..
  | .cpLoop .. | .cpOrg .. | .cpPad .. | .cpIn .. | .cpInCout .. | .cpOut .. | .cpOutCin .. | .cpFill ..
  | .cpFillCin .. | .cpT2t .. | .cpGath .. | .cpScat .. | .cpRed .. | .cpPeer .. | .cpDrain .. | .cpDrainCin ..
  | .kxIld .. | .kxSpmm .. | .kxBspmm .. | .kxSddmm .. | .kxSpadd .. | .kxSort .. | .kxMerge .. | .kxSsort ..
  | .kxCmpct .. | .kxUniq .. | .kxTopk .. => .engine
  | .nop .. | .launch .. | .ind .. | .pred .. | .loop .. | .ffence .. | .write .. | .wait .. | .signal .. | .dma ..
  | .iflush .. => .packet
  | .roomAccept .. | .markerPass .. | .capabilityWaitDone .. | .yardAcknowledge .. | .barWaitSatisfied ..
  | .ringSlotFreed .. | .ringGetSatisfied .. | .waitExpired .. | .queueTake .. | .syRoundLeave .. | .mxGroupRetire ..
  | .vxWriteLand .. | .copyComplete .. | .copySourceRead .. | .reductionAtHome .. | .histogramIncrement ..
  | .sidecarMerge .. | .classWordComplete .. | .wordFaultInterrupt .. | .taskDispatch .. | .fallbackMove ..
  | .taskCompletion .. | .applyDecrement .. | .graphEnd .. | .preemption .. | .saveComplete .. | .restore ..
  | .hang .. | .saveTimeout .. | .contextKill .. | .doorbell .. | .sqReset .. | .halt .. | .haltClear .. | .en ..
  | .packetFetch .. | .waitReread .. | .create .. | .destroy .. | .kill .. | .grant .. | .revoke .. | .hostbuf ..
  | .imprt .. | .remap .. | .attest .. | .loadfw .. | .commandCompletion .. | .debugStopBay .. | .debugStopContext ..
  | .debugRestart .. | .registerWrite .. | .hostMemoryRequest .. | .peerRequest .. | .linkReplay .. | .linkDown ..
  | .functionLevelReset .. | .boot .. | .throttle .. | .illegalInstruction .. | .mxLastRowWritten .. => .nothing

/-! ### Actions and bays (R11) -/

/-- The bay that an event of the opcode table names. -/
def eventBay (i : Instr) : Option BayNo :=
  match i with
  | .roomAccept b | .markerPass b _ | .capabilityWaitDone b | .yardAcknowledge b | .barWaitSatisfied b | .ringGetSatisfied b
  | .waitExpired b | .queueTake b | .syRoundLeave b _ | .mxGroupRetire b | .vxWriteLand b | .copyComplete b _ _
  | .copySourceRead b _ _ | .classWordComplete b | .wordFaultInterrupt b | .taskCompletion b | .saveComplete b | .restore b
  | .hang b | .saveTimeout b | .contextKill _ _ _ b | .debugStopBay b | .mxLastRowWritten b _ => some b
  | _ => none

/-- The bay that an action names. -/
def Action.bay? (a : Action) : Option BayNo :=
  match a with
  | .gen b => some b
  | .issue b _ => some b
  | .event i => eventBay i
  | _ => none

end Sys2Proof.Machine
end

