-- ==== Sys2Proof/Certificates/Slice0/Obligations.lean ====
section
/-! DEFINITION. The statements for the provers, each from the spec's rules; where one rests on the model's own choice its
docstring says so. -/
open Sys2Proof Sys2Proof.Machine

/-! ### The generator: computation (R37, R131) -/

/-- R37, R131: a computational instruction, BFEXT and BFINS retire with their result in rd, and change nothing else. -/
def Obligations.alu_completes : Prop :=
  (∀ (a : Alu) (s : State),
    let g := (s.bay s.cur).gen
    Completes (.integerAlu a) s fun t =>
      retires [(aluResult a g).1] (g.pc + 4) s t ∧
        (t.bay s.cur).gen.rd (aluResult a g).1 = result (aluResult a g).1 (aluResult a g).2) ∧
  (∀ (rd rs1 : Reg) (pos len1 : BitVec 6) (s : State), (Instr.bfext rd rs1 pos len1).wf = true →
    let g := (s.bay s.cur).gen
    Completes (.bfext rd rs1 pos len1) s fun t =>
      retires [rd] (g.pc + 4) s t ∧ ∀ k, rd ≠ 0 → ((t.bay s.cur).gen.rd rd).getLsbD k =
        (decide (k < len1.toNat + 1) && (g.rd rs1).getLsbD (pos.toNat + k))) ∧
  ∀ (rd rs1 : Reg) (pos len1 : BitVec 6) (s : State), (Instr.bfins rd rs1 pos len1).wf = true →
    let g := (s.bay s.cur).gen
    Completes (.bfins rd rs1 pos len1) s fun t =>
      retires [rd] (g.pc + 4) s t ∧ ∀ k, rd ≠ 0 → ((t.bay s.cur).gen.rd rd).getLsbD k =
        if pos.toNat ≤ k ∧ k < pos.toNat + (len1.toNat + 1) then (g.rd rs1).getLsbD (k - pos.toNat)
        else (g.rd rd).getLsbD k

/-- R37 (the RISC-V I, M, Zba and Zbb extensions): sums, differences, comparisons, logic, minima and maxima; the 128-bit
products; the truncated quotients and remainders at every operand; shifts and rotates bit by bit; every word form as the
sign extension of its 32-bit result; shifted additions; counts, byte operations and extensions; LUI and AUIPC. -/
def Obligations.alu_values : Prop :=
  (∀ a b : Word,
    (aluRR .add a b).toNat = (a.toNat + b.toNat) % 2 ^ 64 ∧
    (aluRR .sub a b).toNat = (a.toNat + (2 ^ 64 - b.toNat)) % 2 ^ 64 ∧
    aluRR .slt a b = (if a.toInt < b.toInt then 1 else 0) ∧ aluRR .sltu a b = (if a.toNat < b.toNat then 1 else 0) ∧
    (aluRR .min a b).toInt = min a.toInt b.toInt ∧ (aluRR .max a b).toInt = max a.toInt b.toInt ∧
    (aluRR .minu a b).toNat = min a.toNat b.toNat ∧ (aluRR .maxu a b).toNat = max a.toNat b.toNat ∧
    ∀ k < 64,
      (aluRR .and a b).getLsbD k = (a.getLsbD k && b.getLsbD k) ∧ (aluRR .or a b).getLsbD k = (a.getLsbD k || b.getLsbD k) ∧
      (aluRR .xor a b).getLsbD k = (a.getLsbD k != b.getLsbD k) ∧ (aluRR .andn a b).getLsbD k = (a.getLsbD k && !b.getLsbD k) ∧
      (aluRR .orn a b).getLsbD k = (a.getLsbD k || !b.getLsbD k) ∧ (aluRR .xnor a b).getLsbD k = (a.getLsbD k == b.getLsbD k)) ∧
  (∀ a b : Word,
    aluRR .mulh a b ++ aluRR .mul a b = BitVec.ofInt 128 (a.toInt * b.toInt) ∧
    aluRR .mulhsu a b ++ aluRR .mul a b = BitVec.ofInt 128 (a.toInt * b.toNat) ∧
    aluRR .mulhu a b ++ aluRR .mul a b = BitVec.ofNat 128 (a.toNat * b.toNat)) ∧
  (∀ a b : Word,
    let overflow := a.toInt = -2 ^ 63 ∧ b.toInt = -1
    (b = 0 → aluRR .div a b = BitVec.allOnes 64 ∧ aluRR .divu a b = BitVec.allOnes 64 ∧ aluRR .rem a b = a ∧
      aluRR .remu a b = a) ∧
    (b ≠ 0 → (aluRR .divu a b).toNat = a.toNat / b.toNat ∧ (aluRR .remu a b).toNat = a.toNat % b.toNat) ∧
    (b ≠ 0 → ¬ overflow → (aluRR .div a b).toInt = a.toInt.tdiv b.toInt ∧ (aluRR .rem a b).toInt = a.toInt.tmod b.toInt) ∧
    (overflow → aluRR .div a b = a ∧ aluRR .rem a b = 0)) ∧
  (∀ a b : Word, ∀ k < 64,
    (aluRR .sll a b).getLsbD k = (decide (b.toNat % 64 ≤ k) && a.getLsbD (k - b.toNat % 64)) ∧
    (aluRR .srl a b).getLsbD k = (decide (k + b.toNat % 64 < 64) && a.getLsbD (k + b.toNat % 64)) ∧
    (aluRR .sra a b).getLsbD k = a.getLsbD (min 63 (k + b.toNat % 64)) ∧
    (aluRR .rol a b).getLsbD ((k + b.toNat) % 64) = a.getLsbD k ∧
    (aluRR .ror a b).getLsbD k = a.getLsbD ((k + b.toNat) % 64)) ∧
  (∀ a b : Word,
    let x := a.setWidth 32
    let z := b.setWidth 32
    let overflow := x.toInt = -2 ^ 31 ∧ z.toInt = -1
    (aluRR .addw a b).toInt = (x.toInt + z.toInt).bmod (2 ^ 32) ∧ (aluRR .subw a b).toInt = (x.toInt - z.toInt).bmod (2 ^ 32) ∧
    (aluRR .mulw a b).toInt = (x.toInt * z.toInt).bmod (2 ^ 32) ∧
    (z = 0 → (aluRR .divw a b).toInt = -1 ∧ (aluRR .divuw a b).toInt = -1 ∧ (aluRR .remw a b).toInt = x.toInt ∧
      (aluRR .remuw a b).toInt = x.toInt) ∧
    (z ≠ 0 → (aluRR .divuw a b).toInt = (x.toNat / z.toNat : Int).bmod (2 ^ 32) ∧
      (aluRR .remuw a b).toInt = (x.toNat % z.toNat : Int).bmod (2 ^ 32)) ∧
    (z ≠ 0 → ¬ overflow → (aluRR .divw a b).toInt = x.toInt.tdiv z.toInt ∧ (aluRR .remw a b).toInt = x.toInt.tmod z.toInt) ∧
    (overflow → (aluRR .divw a b).toInt = -2 ^ 31 ∧ aluRR .remw a b = 0) ∧
    ∀ k < 64,
      (aluRR .sllw a b).getLsbD k = (decide (b.toNat % 32 ≤ min k 31) && a.getLsbD (min k 31 - b.toNat % 32)) ∧
      (aluRR .srlw a b).getLsbD k = (decide (min k 31 + b.toNat % 32 < 32) && a.getLsbD (min k 31 + b.toNat % 32)) ∧
      (aluRR .sraw a b).getLsbD k = a.getLsbD (min 31 (k + b.toNat % 32)) ∧
      (aluRR .rolw a b).getLsbD k = a.getLsbD ((min k 31 + 32 - b.toNat % 32) % 32) ∧
      (aluRR .rorw a b).getLsbD k = a.getLsbD ((min k 31 + b.toNat) % 32)) ∧
  (∀ (a : Word) (imm : BitVec 12) (amt : BitVec 6),
    let b := imm.signExtend 64
    let m := amt.setWidth 64
    aluRI .addi a imm = aluRR .add a b ∧ aluRI .slti a imm = aluRR .slt a b ∧ aluRI .sltiu a imm = aluRR .sltu a b ∧
    aluRI .xori a imm = aluRR .xor a b ∧ aluRI .ori a imm = aluRR .or a b ∧ aluRI .andi a imm = aluRR .and a b ∧
    aluRI .addiw a imm = aluRR .addw a b ∧ aluSh .slli a amt = aluRR .sll a m ∧ aluSh .srli a amt = aluRR .srl a m ∧
    aluSh .srai a amt = aluRR .sra a m ∧ aluSh .rori a amt = aluRR .ror a m ∧
    (aluSh .slliUw a amt).toNat = a.toNat % 2 ^ 32 * 2 ^ amt.toNat % 2 ^ 64 ∧
    (amt.toNat < 32 → aluSh .slliw a amt = aluRR .sllw a m ∧ aluSh .srliw a amt = aluRR .srlw a m ∧
      aluSh .sraiw a amt = aluRR .sraw a m ∧ aluSh .roriw a amt = aluRR .rorw a m)) ∧
  (∀ a b : Word, (aluRR .sh1add a b).toNat = (2 * a.toNat + b.toNat) % 2 ^ 64 ∧
    (aluRR .sh2add a b).toNat = (4 * a.toNat + b.toNat) % 2 ^ 64 ∧
    (aluRR .sh3add a b).toNat = (8 * a.toNat + b.toNat) % 2 ^ 64 ∧
    (aluRR .addUw a b).toNat = (a.toNat % 2 ^ 32 + b.toNat) % 2 ^ 64 ∧
    (aluRR .sh1addUw a b).toNat = (2 * (a.toNat % 2 ^ 32) + b.toNat) % 2 ^ 64 ∧
    (aluRR .sh2addUw a b).toNat = (4 * (a.toNat % 2 ^ 32) + b.toNat) % 2 ^ 64 ∧
    (aluRR .sh3addUw a b).toNat = (8 * (a.toNat % 2 ^ 32) + b.toNat) % 2 ^ 64) ∧
  (∀ a : Word, (∀ k, k < (aluU .clz a).toNat → a.getLsbD (63 - k) = false) ∧
    (a ≠ 0 → a.getLsbD (63 - (aluU .clz a).toNat) = true) ∧ (aluU .clz a).toNat ≤ 64 ∧
    (∀ k, k < (aluU .ctz a).toNat → a.getLsbD k = false) ∧
    (a ≠ 0 → a.getLsbD (aluU .ctz a).toNat = true) ∧ (aluU .ctz a).toNat ≤ 64 ∧
    (aluU .clz 0).toNat = 64 ∧ (aluU .ctz 0).toNat = 64 ∧
    (aluU .cpop a).toNat = ((Finset.range 64).filter fun k => a.getLsbD k = true).card ∧
    (let x := (a.setWidth 32).setWidth 64
     (aluU .clzw a).toNat + 32 = (aluU .clz x).toNat ∧ (aluU .ctzw a).toNat = min 32 (aluU .ctz x).toNat ∧
       aluU .cpopw a = aluU .cpop x) ∧
    (aluU .sextB a).toInt = (a.toNat : Int).bmod (2 ^ 8) ∧ (aluU .sextH a).toInt = (a.toNat : Int).bmod (2 ^ 16) ∧
    (aluU .zextH a).toNat = a.toNat % 2 ^ 16 ∧
    ∀ k < 8, byteOf (aluU .rev8 a) k = byteOf a (7 - k) ∧
      byteOf (aluU .orcB a) k = if byteOf a k = 0 then 0 else 0xFF) ∧
  ∀ (g : Gen) (rd rs1 rs2 : Reg) (imm : BitVec 12) (amt : BitVec 6) (up : BitVec 20),
    (∀ op, aluResult (.rr op rd rs1 rs2) g = (rd, aluRR op (g.rd rs1) (g.rd rs2))) ∧
    (∀ op, aluResult (.ri op rd rs1 imm) g = (rd, aluRI op (g.rd rs1) imm)) ∧
    (∀ op, aluResult (.sh op rd rs1 amt) g = (rd, aluSh op (g.rd rs1) amt)) ∧
    (∀ op, aluResult (.un op rd rs1) g = (rd, aluU op (g.rd rs1))) ∧
    (aluResult (.lui rd up) g).1 = rd ∧ (aluResult (.lui rd up) g).2.toInt = up.toInt * 2 ^ 12 ∧
    aluResult (.auipc rd up) g = (rd, g.pc + BitVec.ofInt 64 (up.toInt * 2 ^ 12))

/-! ### CSRs, exceptions, jumps (R38, R39, R41, R43, R108, R112, R141, R143, R378) -/

/-- R38, R41: an access to a CSR that exists, in a mode that may make it and with no write to a read-only one, gives rd the
old value. R112, R378: a write of a Zazin CSR reaches its RW fields and no other bit, a write of 15 to zclass from S or U
mode leaves it unchanged, and no other CSR changes; one of bbcbase writes the counter cache back (R138), each count at its
home beneath the shed's line, and a count whose home no path reaches is lost (the model's choice, log 72). A write of a
standard CSR reaches the bits that log 1 gives it (sstatus, sie and sip those of mstatus, mie and mip that they show; MPP
takes no reserved mode), and no other CSR changes but minstret, which counts the instruction unless the write is its own. -/
def Obligations.csr_completes : Prop :=
  ∀ (op : CsrOp) (rd src : Reg) (csr : BitVec 12) (s : State) (old : Word),
    s.csrRead s.cur csr.toNat = some old → (csr.extractLsb' 8 2).toNat ≤ (s.bay s.cur).gen.mode.toNat →
    let i := Instr.csrAccess op rd src csr
    let y := s.bay s.cur
    let g := y.gen
    let back : Nat := if csr = 0x100 then 0x300 else if csr = 0x104 then 0x304 else if csr = 0x144 then 0x344 else csr.toNat
    (csrNewValue op old (g.rd src) src = none → Completes i s fun t =>
      retires [rd] (g.pc + 4) s t ∧ (t.bay s.cur).gen.rd rd = result rd old) ∧
    ∀ v, csrNewValue op old (g.rd src) src = some v → csr.extractLsb' 10 2 ≠ 3 → Completes i s fun t =>
      let z := t.bay s.cur
      let h := z.gen
      h.rd rd = result rd old ∧ (∀ r, r ≠ rd → h.rd r = g.rd r) ∧ h.pc = g.pc + 4 ∧ h.wait = none ∧
        otherBays s.cur s t ∧ otherSheds (shedOf s.cur) s t ∧ t.yard = s.yard ∧ onlyMemory s t ∧
        z = { y with gen := h, wf := { y.wf with act := z.wf.act }, counters := z.counters,
                     hangCount := z.hangCount, hangOnce := z.hangOnce } ∧
        h.mode = g.mode ∧ h.parked = g.parked ∧ h.mfault = g.mfault ∧
        (csr ≠ 0x5C8 → t = { s with bays := t.bays } ∧ z.counters = y.counters) ∧
        (csr = 0x5C8 → z.counters = [] ∧ (y.counters = [] → t = { s with bays := t.bays }) ∧
          ∀ bf off delta, y.counters = [(bf, off, delta)] →
            (s.unreachable y.ctx bf = true → t = { s with bays := t.bays }) ∧
            ∀ base, s.unreachable y.ctx bf = false → s.home y.ctx bf = .mem base →
              let u := s.dropLine (shedOf s.cur) (lineKey y.ctx bf off)
              t.sheds = u.sheds ∧ t.host = u.host ∧
                t.homeBytes y.ctx bf off 8 = leBytes (leNat (u.homeBytes y.ctx bf off 8) + delta.toNat) 8 ∧
                ∀ p, ¬ (base + off ≤ p ∧ p < base + off + 8) → t.mem.find? p = u.mem.find? p) ∧
        (csr.toNat ∈ zazinCsrs →
          t.csrRead s.cur csr.toNat = some (
            if csr = 0x800 ∧ v.extractLsb' 0 4 = 15 ∧ g.mode ≠ 3 then old
            else (old &&& ~~~(zazinField csr.toNat)) ||| (v &&& zazinField csr.toNat)) ∧
          (∀ n ∈ zazinCsrs, n ≠ csr.toNat → t.csrRead s.cur n = s.csrRead s.cur n) ∧
          (∀ n, n ≠ 0xB02 → h.csrRd n = g.csrRd n)) ∧
        (csr.toNat ∉ zazinCsrs →
          (∀ n ∈ zazinCsrs, t.csrRead s.cur n = s.csrRead s.cur n) ∧
          (∀ n, n ≠ 0xB02 → n ≠ back → h.csrRd n = g.csrRd n) ∧
          (csr ≠ 0xB02 → h.csrRd back = (g.csrRd back &&& ~~~(csrField g csr.toNat v)) ||| (v &&& csrField g csr.toNat v)) ∧
          (csr = 0xB02 → h.csrRd 0xB02 = v) ∧
          t.csrRead s.cur 0x100 = some (h.csrRd 0x300 &&& 0x300000122) ∧
          t.csrRead s.cur 0x104 = some (h.csrRd 0x304 &&& h.csrRd 0x303) ∧
          t.csrRead s.cur 0x344 = some ((h.csrRd 0x344 &&& 0x20000) ||| (if y.wf.valid then 0x10000 else 0)) ∧
          t.csrRead s.cur 0x144 =
            some (((h.csrRd 0x344 &&& 0x20000) ||| (if y.wf.valid then 0x10000 else 0)) &&& h.csrRd 0x303)) ∧
        (csr ≠ 0xB02 → h.csrRd 0xB02 =
          if (h.csrRd 0x320).getLsbD 2 then g.csrRd 0xB02 else g.csrRd 0xB02 + 1)

/-- R38: an access to an absent CSR, from a mode below the CSR's, or a write of a read-only one is an illegal instruction;
R46: so are LD.C and ST.C in class 15 outside M mode. R143, R39: ECALL, EBREAK and unassigned encodings take their
exceptions; an ECALL from S mode returns −1 in a0. That an ECALL from M mode takes cause 11 is the model's reading
(log 43). -/
def Obligations.exceptions_complete : Prop :=
  (∀ s : State,
    let g := (s.bay s.cur).gen
    (∀ (op : CsrOp) (rd src : Reg) (csr : BitVec 12),
      s.csrRead s.cur csr.toNat = none ∨ g.mode.toNat < (csr.extractLsb' 8 2).toNat ∨
        (csr.extractLsb' 10 2 = 3 ∧ ∃ old v, s.csrRead s.cur csr.toNat = some old ∧
          csrNewValue op old (g.rd src) src = some v) →
      Completes (.csrAccess op rd src csr) s
        (traps 2 (((encodeGen (.csrAccess op rd src csr)).getD 0).setWidth 64) s)) ∧
    ∀ i : Instr, classOk i g = false → Completes i s (traps 2 (((encodeGen i).getD 0).setWidth 64) s)) ∧
  (∀ s : State,
    let g := (s.bay s.cur).gen
    (g.mode = 0 → Completes .ecall s (traps 8 0 s)) ∧
    (g.mode = 1 → Completes .ecall s fun t =>
      retires [10] (g.pc + 4) s t ∧ (t.bay s.cur).gen.rd 10 = BitVec.allOnes 64) ∧
    (g.mode = 3 → Completes .ecall s (traps 11 0 s)) ∧
    Completes .ebreak s (traps 3 g.pc s) ∧
    ∀ w : W32, Completes (.illegalInstruction w) s (traps 2 (w.setWidth 64) s))

/-- R39 (the privileged specification): SRET and MRET, in the modes that may execute them and in the others. -/
def Obligations.xret_completes : Prop :=
  ∀ s : State,
    let g := (s.bay s.cur).gen
    (g.mode = 3 ∨ (g.mode = 1 ∧ (g.csrRd 0x300).getLsbD 22 = false) → Completes (.xret 0) s fun t =>
      let h := (t.bay s.cur).gen
      onlyBay s.cur s t ∧ onlyGen (s.bay s.cur) (t.bay s.cur) ∧
        h = { g with pc := h.pc, mode := h.mode, csr := h.csr } ∧
        h.pc = g.csrRd 0x141 &&& ~~~3#64 ∧ h.mode = (if (g.csrRd 0x300).getLsbD 8 then 1 else 0) ∧
        (h.csrRd 0x300).getLsbD 1 = (g.csrRd 0x300).getLsbD 5 ∧ (h.csrRd 0x300).getLsbD 5 = true ∧
        (h.csrRd 0x300).getLsbD 8 = false ∧ (h.csrRd 0x300).getLsbD 17 = false ∧
        (∀ k, k ∉ [1, 5, 8, 17] → (h.csrRd 0x300).getLsbD k = (g.csrRd 0x300).getLsbD k) ∧
        ∀ n, n ≠ 0x300 → n ≠ 0xB02 → h.csrRd n = g.csrRd n) ∧
    (g.mode = 3 → Completes (.xret 1) s fun t =>
      let h := (t.bay s.cur).gen
      onlyBay s.cur s t ∧ onlyGen (s.bay s.cur) (t.bay s.cur) ∧
        h = { g with pc := h.pc, mode := h.mode, csr := h.csr } ∧
        h.pc = g.csrRd 0x341 &&& ~~~3#64 ∧ h.mode = (g.csrRd 0x300).extractLsb' 11 2 ∧
        (h.csrRd 0x300).getLsbD 3 = (g.csrRd 0x300).getLsbD 7 ∧ (h.csrRd 0x300).getLsbD 7 = true ∧
        (h.csrRd 0x300).extractLsb' 11 2 = 0 ∧
        (h.csrRd 0x300).getLsbD 17 = ((g.csrRd 0x300).getLsbD 17 && decide (h.mode = 3)) ∧
        (∀ k, k ∉ [3, 7, 11, 12, 17] → (h.csrRd 0x300).getLsbD k = (g.csrRd 0x300).getLsbD k) ∧
        ∀ n, n ≠ 0x300 → n ≠ 0xB02 → h.csrRd n = g.csrRd n) ∧
    (g.mode = 0 ∨ (g.mode = 1 ∧ (g.csrRd 0x300).getLsbD 22 = true) → Completes (.xret 0) s (traps 2 0x10200073 s)) ∧
    (g.mode ≠ 3 → Completes (.xret 1) s (traps 2 0x30200073 s))

/-- R43, R37: JAL, JALR and branches to a target in the code move the pc and link; one not a multiple of 4 is the
misaligned exception of the jump itself; one outside the code is the access fault, which the model takes at the target
once the jump has retired (log 18); a branch whose condition fails moves to the next instruction. What SLOT 63 names
below M mode and in it is R109's (log 56). -/
def Obligations.jumps_complete : Prop :=
  (∀ a b : Word,
    (branchTaken .beq a b = true ↔ a = b) ∧ (branchTaken .bne a b = true ↔ a ≠ b) ∧
    (branchTaken .blt a b = true ↔ a.toInt < b.toInt) ∧ (branchTaken .bge a b = true ↔ b.toInt ≤ a.toInt) ∧
    (branchTaken .bltu a b = true ↔ a.toNat < b.toNat) ∧ (branchTaken .bgeu a b = true ↔ b.toNat ≤ a.toNat)) ∧
  ∀ (s : State) (rd rs1 rs2 : Reg) (joff : BitVec 20) (off : BitVec 12) (op : BranchOp),
    let y := s.bay s.cur
    let g := y.gen
    let fits (a : Word) : Prop := a.toNat % 4 = 0 ∧ s.pcOk y a = true
    let jalTo := g.pc + (joff ++ 0#1).signExtend 64
    let jalrTo := (g.rd rs1 + off.signExtend 64) &&& ~~~1#64
    let brTo := g.pc + (off ++ 0#1).signExtend 64
    (fits jalTo → Completes (.jumpBranch (.jal rd joff)) s fun t =>
      retires [rd] jalTo s t ∧ (t.bay s.cur).gen.rd rd = result rd (g.pc + 4)) ∧
    (fits jalrTo → Completes (.jumpBranch (.jalr rd rs1 off)) s fun t =>
      retires [rd] jalrTo s t ∧ (t.bay s.cur).gen.rd rd = result rd (g.pc + 4)) ∧
    (branchTaken op (g.rd rs1) (g.rd rs2) = true → fits brTo →
      Completes (.jumpBranch (.br op rs1 rs2 off)) s (retires [] brTo s)) ∧
    (branchTaken op (g.rd rs1) (g.rd rs2) = false →
      Completes (.jumpBranch (.br op rs1 rs2 off)) s (retires [] (g.pc + 4) s)) ∧
    (jalTo.toNat % 4 = 0 → s.pcOk y jalTo = false → Completes (.jumpBranch (.jal rd joff)) s
      (trapsAfter 1 jalTo [rd] jalTo (fun h => h.rd rd = result rd (g.pc + 4)) s)) ∧
    (jalrTo.toNat % 4 = 0 → s.pcOk y jalrTo = false → Completes (.jumpBranch (.jalr rd rs1 off)) s
      (trapsAfter 1 jalrTo [rd] jalrTo (fun h => h.rd rd = result rd (g.pc + 4)) s)) ∧
    (branchTaken op (g.rd rs1) (g.rd rs2) = true → brTo.toNat % 4 = 0 → s.pcOk y brTo = false →
      Completes (.jumpBranch (.br op rs1 rs2 off)) s (trapsAfter 1 brTo [] brTo (fun _ => True) s)) ∧
    (∀ a : Word, s.pcOk y a = true ↔ a.toNat / 2 ^ 58 = 63 ∧ a.extractLsb' 32 26 = 0 ∧
      a.toNat % 2 ^ 32 < if g.mode = 0 then y.csize else if g.mode = 1 then s.bufSize y.ctx 0xFFFFF9 else 65536) ∧
    (jalTo.toNat % 4 ≠ 0 → Completes (.jumpBranch (.jal rd joff)) s (traps 0 jalTo s)) ∧
    (jalrTo.toNat % 4 ≠ 0 → Completes (.jumpBranch (.jalr rd rs1 off)) s (traps 0 jalrTo s)) ∧
    (branchTaken op (g.rd rs1) (g.rd rs2) = true → brTo.toNat % 4 ≠ 0 →
      Completes (.jumpBranch (.br op rs1 rs2 off)) s (traps 0 brTo s))

/-! ### The generator: memory (R40, R42, R44, R133, R191 to R201, R224 to R230) -/

/-- R44, R40, R42: the checks of a data access of n bytes in their order, each with its cause; one that passes them all
goes to the byte offset in the slot's buffer. R171: rights and size are the lookaside's where it holds the slot's buffer,
else the table's. R407: a home that no path reaches is the access fault; that it comes behind the alignment is the model's
order (log 24). R227: an AMO on a host-resident buffer is cause 7. R109: in M mode SLOT 63 names the bay's firmware store of
64 KiB. -/
def Obligations.address_checks : Prop :=
  ∀ (s : State) (b : BayNo) (acc : Access) (a : Word) (n : Nat),
    let y := s.bay b
    let access : Nat := if acc = .load then 5 else 7
    let align : Nat := if acc = .load then 4 else 6
    let off := a.toNat % 2 ^ 48
    (a.extractLsb' 48 10 ≠ 0 → s.checkAddr b acc a n = .error access) ∧
    (a.extractLsb' 48 10 = 0 →
      (y.slotCap (a.toNat / 2 ^ 58) = none → s.checkAddr b acc a n = .error 24) ∧
      (a.toNat / 2 ^ 58 = 63 → y.gen.mode = 3 → (y.gen.csrRd 0x300).getLsbD 17 = false →
        (65536 < off + n → s.checkAddr b acc a n = .error 25) ∧
        (off + n ≤ 65536 → off % n ≠ 0 → s.checkAddr b acc a n = .error align) ∧
        (off + n ≤ 65536 → off % n = 0 → acc ≠ .amo → s.checkAddr b acc a n = .ok (.fw off))) ∧
      ∀ bf rights, y.slotCap (a.toNat / 2 ^ 58) = some (some bf, rights) →
        let need := (acc = .load ∨ acc = .amo → rights.getLsbD 0 = true) ∧
          (acc = .store ∨ acc = .amo → rights.getLsbD 1 = true)
        let slot := a.toNat / 2 ^ 58
        let held := y.look.find? (slot * 2 ^ 24 + bf.toNat)
        let size := match held with
          | some l => l.size
          | none => s.bufSize y.ctx bf
        (slot ≠ 63 → ∀ c, y.caps.find? slot = some c → bf = c.buf ∧ rights = match held with
          | some l => l.rights
          | none => c.rights) ∧
        (¬ need → s.checkAddr b acc a n = .error 24) ∧
        (need → size < off + n → s.checkAddr b acc a n = .error 25) ∧
        (need → off + n ≤ size → off % n ≠ 0 → s.checkAddr b acc a n = .error align) ∧
        (need → off + n ≤ size → off % n = 0 → s.unreachable y.ctx bf = true →
          s.checkAddr b acc a n = .error access) ∧
        (need → off + n ≤ size → off % n = 0 → s.unreachable y.ctx bf = false →
          s.checkAddr b acc a n = if acc = .amo ∧ s.isHost y.ctx bf = true then .error 7 else .ok (.buf bf off)))

/-- R37, R133, R44: a load whose access the checks and watchpoints let through retires with the bytes read in its class,
extended, and leaves every byte of memory as it was; one that the checks refuse takes the exception they name. R401, R143: one
that a watchpoint with ACT = 0 matches is the breakpoint exception, cause 3. R109: in M mode SLOT 63 reads the firmware
store. -/
def Obligations.loads_complete : Prop :=
  ∀ (i : Instr) (s : State) (x : LoadW) (rd : Reg) (a : Word) (cls : BitVec 4),
    let y := s.bay s.cur
    let n := loadBytes x
    loadForm i y.gen = some (x, rd, a, cls) → classOk i y.gen = true →
    (∀ bf off, s.checkAddr s.cur .load a n = .ok (.buf bf off) →
      s.watchGen y.ctx bf off n cls.toNat .load = none → Completes i s fun t =>
        retiresBeside [rd] (y.gen.pc + 4) s t ∧ onlyMemory s t ∧ homesKept s t ∧ otherSheds (shedOf s.cur) s t ∧
          (t.bay s.cur).gen.rd rd = result rd
            (loadExtend x (leNat (s.load (shedOf s.cur) cls.toNat y.ctx bf off n).1))) ∧
    (∀ off, s.checkAddr s.cur .load a n = .ok (.fw off) → Completes i s fun t =>
      retires [rd] (y.gen.pc + 4) s t ∧
        (t.bay s.cur).gen.rd rd = result rd (loadExtend x (leNat (Mem.readN y.firmware off n)))) ∧
    (∀ c, s.checkAddr s.cur .load a n = .error c → Completes i s (traps c a s)) ∧
    ∀ bf off, s.checkAddr s.cur .load a n = .ok (.buf bf off) →
      s.watchGen y.ctx bf off n cls.toNat .load = some false → Completes i s (traps 3 a s)

/-- R192, R199, R200: what an access of a class reads: a byte that the shed holds dirty, or in a line that the class has
touched, is the shed's; any other is the byte at its home (that a line no access of the class has touched is taken anew is
the model's reading, log 15). R195, R200, R201: writing a line back gives each dirty byte to its home and no other byte, and
leaves the line clean; one whose home no path reaches loses its bytes (the model's choice, log 72). -/
def Obligations.shed_cache : Prop :=
  (∀ (s : State) (sh : BitVec 4) (cls : Nat) (c : CtxNo) (b : BufId) (off n k : Nat),
    k < n → off % 64 + n ≤ 64 → s.ok = true →
    (s.load sh cls c b off n).1[k]? = some
      (match (s.shed sh).cache.find? (lineKey c b off) with
       | some l =>
         if l.mask.getLsbD cls = true ∨ l.dirty.getLsbD (off % 64 + k) = true then l.data.getD (off % 64 + k) 0
         else s.homeByte c b (off + k)
       | none => s.homeByte c b (off + k))) ∧
  (∀ (s : State) (sh : BitVec 4) (key base : Nat) (l : Line),
    (s.shed sh).cache.find? key = some l → s.home (keyCtx key) (keyBuf key) = .mem base →
    let t := s.writeBack sh key
    (∃ l', (t.shed sh).cache.find? key = some l' ∧ l'.dirty = 0 ∧ l'.data = l.data ∧ l'.mask = l.mask) ∧
      (∀ k, k ≠ key → (t.shed sh).cache.find? k = (s.shed sh).cache.find? k) ∧ otherSheds sh s t ∧
      t.host = s.host ∧ t.bays = s.bays ∧ t.yard = s.yard ∧
      ∀ p, t.mem.find? p =
        if s.unreachable (keyCtx key) (keyBuf key) = false ∧ base + keyOff key ≤ p ∧ p < base + keyOff key + 64 ∧
          l.dirty.getLsbD (p - (base + keyOff key)) = true
        then some (l.data.getD (p - (base + keyOff key)) 0) else s.mem.find? p)

/-- R37, R133, R191, R201: a store that the checks and watchpoints let through writes its bytes, which its class then reads
back, and no other byte; a store to a loft-homed buffer changes no home, one to a host-resident buffer passes through to
the host's bytes stored to. R401, R143: one that a watchpoint with ACT = 0 matches is the breakpoint exception, cause 3. R109:
in M mode SLOT 63 writes the firmware store. -/
def Obligations.stores_complete : Prop :=
  ∀ (i : Instr) (s : State) (x : StoreW) (v a : Word) (cls : BitVec 4),
    let y := s.bay s.cur
    let n := storeBytes x
    let sh := shedOf s.cur
    storeForm i y.gen = some (x, v, a, cls) → classOk i y.gen = true → s.ok = true →
    (∀ bf off, s.checkAddr s.cur .store a n = .ok (.buf bf off) →
      s.watchGen y.ctx bf off n cls.toNat .store = none → Completes i s fun t =>
        retiresBeside [] (y.gen.pc + 4) s t ∧ onlyMemory s t ∧ otherSheds sh s t ∧
          (t.load sh cls.toNat y.ctx bf off n).1 = leBytes v.toNat n ∧
          (∀ c b o, o < 2 ^ 48 → ¬ (c = y.ctx ∧ b = bf ∧ off ≤ o ∧ o < off + n) →
            s.isHost y.ctx bf = false ∨ (c = y.ctx ∧ b = bf) ∨ s.isHost c b = false →
            (t.load sh cls.toNat c b o 1).1 = (s.load sh cls.toNat c b o 1).1) ∧
          (s.isHost y.ctx bf = false → homesKept s t) ∧
          ∀ bus, s.home y.ctx bf = .host bus → t.mem = s.mem ∧ ∀ p, Mem.read t.host p =
            if bus + off ≤ p ∧ p < bus + off + n then (leBytes v.toNat n).getD (p - (bus + off)) 0
            else Mem.read s.host p) ∧
    (∀ off, s.checkAddr s.cur .store a n = .ok (.fw off) → Completes i s fun t =>
      onlyBay s.cur s t ∧ genRetires [] (y.gen.pc + 4) y.gen (t.bay s.cur).gen ∧
        t.bay s.cur = { y with gen := (t.bay s.cur).gen, firmware := (t.bay s.cur).firmware,
                               hangCount := (t.bay s.cur).hangCount, hangOnce := (t.bay s.cur).hangOnce } ∧
        ∀ p, Mem.read (t.bay s.cur).firmware p =
          if off ≤ p ∧ p < off + n then (leBytes v.toNat n).getD (p - off) 0 else Mem.read y.firmware p) ∧
    (∀ c, s.checkAddr s.cur .store a n = .error c → Completes i s (traps c a s)) ∧
    ∀ bf off, s.checkAddr s.cur .store a n = .ok (.buf bf off) →
      s.watchGen y.ctx bf off n cls.toNat .store = some false → Completes i s (traps 3 a s)

/-- R225, R226, R229 (the A extension and Zacas): an AMO takes the old value at its home after its release and its line's
write-back, stores the new one there, gives rd the old one, and changes no other byte. Its release counts for the words
accepted later (R203). The keys of AMO.PKMIN and AMO.PKMAX stand in the order −NaN < −∞ < … < −0 < +0 < … < +∞ < +NaN of
the high halves, then of the low halves unsigned. -/
def Obligations.amos_complete : Prop :=
  (∀ a b : Nat, a < 2 ^ 64 → b < 2 ^ 64 → (pkkey a < pkkey b ↔ packedBelow a b) ∧ (pkkey a = pkkey b ↔ a = b)) ∧
  (∀ w old src cmp : Nat, 0 < w → old < 2 ^ w → src < 2 ^ w → cmp < 2 ^ w →
    let so := (BitVec.ofNat w old).toInt
    let ss := (BitVec.ofNat w src).toInt
    amoValue .swap w old src cmp = src ∧ amoValue .add w old src cmp = (old + src) % 2 ^ w ∧
      amoValue .min w old src cmp = (if so < ss then old else src) ∧
      amoValue .max w old src cmp = (if so < ss then src else old) ∧
      amoValue .minu w old src cmp = min old src ∧ amoValue .maxu w old src cmp = max old src ∧
      amoValue .cas w old src cmp = (if old = cmp then src else old) ∧
      ∀ k, (amoValue .and w old src cmp).testBit k = (old.testBit k && src.testBit k) ∧
        (amoValue .or w old src cmp).testBit k = (old.testBit k || src.testBit k) ∧
        (amoValue .xor w old src cmp).testBit k = (old.testBit k ^^ src.testBit k)) ∧
  ∀ (i : Instr) (s : State) (aq rl : BitVec 1) (rd rs1 rs2 : Reg) (n : Nat) (f : Nat → Nat) (ext : Nat → Word),
    let y := s.bay s.cur
    let g := y.gen
    let v := (g.rd rs2).toNat
    ((∃ op, i = .rv64Amo op 1 aq rl rd rs1 rs2 ∧ n = 8 ∧ ext = BitVec.ofNat 64 ∧
        f = fun old => amoValue op 64 old v (g.rd rd).toNat) ∨
      (∃ op, i = .rv64Amo op 0 aq rl rd rs1 rs2 ∧ n = 4 ∧ (ext = fun old => (BitVec.ofNat 32 old).signExtend 64) ∧
        f = fun old => amoValue op 32 old v (g.rd rd).toNat) ∨
      (i = .amoPkmin aq rl rd rs1 rs2 ∧ n = 8 ∧ ext = BitVec.ofNat 64 ∧
        f = fun old => if pkkey v < pkkey old then v else old) ∨
      (i = .amoPkmax aq rl rd rs1 rs2 ∧ n = 8 ∧ ext = BitVec.ofNat 64 ∧
        f = fun old => if pkkey old < pkkey v then v else old)) →
    (∀ bf off base, s.checkAddr s.cur .amo (g.rd rs1) n = .ok (.buf bf off) →
      s.watchGen y.ctx bf off n g.zclass.toNat .amo = none → s.home y.ctx bf = .mem base →
      let u := (if rl = 1 then s.release (shedOf s.cur) (g.zrelmask.setWidth 16) (s.amoScope y.ctx bf) else s).dropLine
        (shedOf s.cur) (lineKey y.ctx bf off)
      let old := leNat (u.homeBytes y.ctx bf off n)
      Completes i s fun t =>
        retiresReleased [rd] (g.pc + 4) rl.toNat s t ∧ onlyMemory s t ∧ otherSheds (shedOf s.cur) u t ∧
          (t.bay s.cur).gen.rd rd = result rd (ext old) ∧ t.host = u.host ∧
          t.homeBytes y.ctx bf off n = leBytes (f old) n ∧
          ∀ p, ¬ (base + off ≤ p ∧ p < base + off + n) → t.mem.find? p = u.mem.find? p) ∧
    ∀ c, s.checkAddr s.cur .amo (g.rd rs1) n = .error c → Completes i s (traps c (g.rd rs1) s)

/-- R39, R206, R196, R200: FENCE, FENCE.TSO and FENCE.CM at a scope wider than SHED write every dirty byte of the lines of
their classes to its home, where a path reaches it (log 72), and no other byte, leave no such line in the shed's cache, and
count for the words accepted later (R203); at BAY or SHED scope nothing of memory or cache changes (R195). FENCE.I discards
the instruction cache. WFI ends at once, as the privileged specification lets it. -/
def Obligations.fences_complete : Prop :=
  ∀ s : State, s.ok = true →
    let y := s.bay s.cur
    let sh := shedOf s.cur
    let ordered (m : BitVec 16) (t : State) : Prop :=
      retiresReleased [] (y.gen.pc + 4) 1 s t ∧ onlyMemory s t ∧ otherSheds sh s t ∧
        t.shed sh = { s.shed sh with cache := (t.shed sh).cache } ∧
        (t.shed sh).cache.all (fun e => e.2.mask &&& m == 0) = true ∧
        (∀ k l, (s.shed sh).cache.find? k = some l → l.mask &&& m = 0 → (t.shed sh).cache.find? k = some l) ∧
        (∀ a, (∃ v, dirtyAt s sh m a v) → ∃ v, dirtyAt s sh m a v ∧ t.mem.find? a = some v) ∧
        (∀ a, (∀ v, ¬ dirtyAt s sh m a v) → t.mem.find? a = s.mem.find? a) ∧
        ((∀ k l, (s.shed sh).cache.find? k = some l → s.isHost (keyCtx k) (keyBuf k) = true → l.dirty = 0) → t.host = s.host)
    (∀ fm pred succ rs1 rd, Completes (.fence fm pred succ rs1 rd) s (ordered 0x7FFF)) ∧
    (∀ mask : BitVec 15, ∀ scope : BitVec 3, mask ≠ 0 → 2 ≤ scope.toNat → scope.toNat ≤ 4 →
      Completes (.fenceCm mask scope) s (ordered (mask.setWidth 16))) ∧
    (∀ mask : BitVec 15, ∀ scope : BitVec 3, mask ≠ 0 → scope.toNat ≤ 1 →
      Completes (.fenceCm mask scope) s (retires [] (y.gen.pc + 4) s)) ∧
    (∀ mask : BitVec 15, ∀ scope : BitVec 3, mask = 0 ∨ 5 ≤ scope.toNat →
      Completes (.fenceCm mask scope) s (traps 2 (((encodeGen (.fenceCm mask scope)).getD 0).setWidth 64) s)) ∧
    (∀ imm rs1 rd, Completes (.fenceI imm rs1 rd) s fun t =>
      onlyBay s.cur s t ∧ genRetires [] (y.gen.pc + 4) y.gen (t.bay s.cur).gen ∧
        t.bay s.cur = { y with gen := (t.bay s.cur).gen, icache := [], hangCount := (t.bay s.cur).hangCount,
                               hangOnce := (t.bay s.cur).hangOnce }) ∧
    Completes .wfi s (retires [] (y.gen.pc + 4) s)

/-! ### The generator: counters, marks, accumulator reads (R135 to R140, R400) -/

/-- R138, R139: BBC counts one in the counter cache, writes a full delta and the least recently used one back as 64-bit
additions at their homes, the shed's line of the counter first written back and dropped, has no effect while bbcbase.EN is 0,
and faults as its store check or a host-resident buffer gives. That a cached count keeps its buffer when the capability
changes, and that a sum past 2^48 reaches the checked bits, is the model's choice (log 64), and so is that a count is lost
whose home no path reaches by then (log 72). -/
def Obligations.bbc_completes : Prop :=
  ∀ (n : BitVec 12) (s : State),
    let y := s.bay s.cur
    let g := y.gen
    let a : Word := BitVec.ofNat 64 (g.bbcSlot.toNat * 2 ^ 58 + (g.bbcOff8.toNat * 8 + 8 * n.toNat))
    let written (b : BufId) (at' : Nat) (v : W32) (t : State) : Prop := ∀ base, s.home y.ctx b = .mem base →
      let u := s.dropLine (shedOf s.cur) (lineKey y.ctx b at')
      t.sheds = u.sheds ∧ t.host = u.host ∧
        t.homeBytes y.ctx b at' 8 = leBytes (leNat (u.homeBytes y.ctx b at' 8) + v.toNat) 8 ∧
        ∀ p, ¬ (base + at' ≤ p ∧ p < base + at' + 8) → t.mem.find? p = u.mem.find? p
    (g.bbcEn = 0 → Completes (.bbc n) s (retires [] (g.pc + 4) s)) ∧
    (g.bbcEn = 1 → ∀ c, s.checkAddr s.cur .store a 8 = .error c → Completes (.bbc n) s (traps c a s)) ∧
    (g.bbcEn = 1 → ∀ bf off, s.checkAddr s.cur .store a 8 = .ok (.buf bf off) →
      (s.isHost y.ctx bf = true → Completes (.bbc n) s (traps 24 a s)) ∧
      (s.isHost y.ctx bf = false →
        let delta : W32 := ((y.counters.find? fun e => e.1 == bf && e.2.1 == off).map fun e => e.2.2).getD 0 + 1
        let others := y.counters.filter fun e => !(e.1 == bf && e.2.1 == off)
        Completes (.bbc n) s fun t =>
          let z := t.bay s.cur
          otherBays s.cur s t ∧ genRetires [] (g.pc + 4) g z.gen ∧ otherSheds (shedOf s.cur) s t ∧ onlyMemory s t ∧
            z = { y with gen := z.gen, counters := z.counters, hangCount := z.hangCount, hangOnce := z.hangOnce } ∧
            (delta ≠ 0xFFFFFFFF → z.counters = ((bf, off, delta) :: others).take 64) ∧
            (delta ≠ 0xFFFFFFFF → others.length < 64 → t = { s with bays := t.bays }) ∧
            (delta ≠ 0xFFFFFFFF → ∀ e, others[63]? = some e → others.length = 64 →
              (s.unreachable y.ctx e.1 = true → t = { s with bays := t.bays }) ∧
              (s.unreachable y.ctx e.1 = false → written e.1 e.2.1 e.2.2 t)) ∧
            (delta = 0xFFFFFFFF → z.counters = others ∧ written bf off 0xFFFFFFFF t)))

/-- R136, R140, R400: ACCRD reads an element and the group count of one set as of the last K-group retired, which is the
boundary that the model chooses (log 34); TRMARK appends its record to the bay's region
of the trace buffer, or counts it as dropped, and does nothing in a context that does not trace. -/
def Obligations.probes_complete : Prop :=
  (∀ (rd rd2 rs1 : Reg) (s : State),
    let y := s.bay s.cur
    let v := y.gen.rd rs1
    let a := if v.getLsbD 14 then y.mx.acc1 else y.mx.acc0
    let i := (v.extractLsb' 7 7).toNat
    let j := (v.extractLsb' 0 7).toNat
    let e : W32 := if i ≤ a.ms1.toNat ∧ j ≤ a.ns1.toNat then Tab.get 0 a.val (128 * i + j) else 0
    (rd = rd2 ∧ rd ≠ 0 → Completes (.accrd rd rd2 rs1) s
      (traps 2 (((encodeGen (.accrd rd rd2 rs1)).getD 0).setWidth 64) s)) ∧
    (rd ≠ rd2 ∨ rd = 0 →
      (bayKind s.cur ≠ 3 → Completes (.accrd rd rd2 rs1) s (traps 49 0 s)) ∧
      (bayKind s.cur = 3 → 2 ^ 15 ≤ v.toNat → Completes (.accrd rd rd2 rs1) s (traps 26 v s)) ∧
      (bayKind s.cur = 3 → v.toNat < 2 ^ 15 → Completes (.accrd rd rd2 rs1) s fun t =>
        retires [rd, rd2] (y.gen.pc + 4) s t ∧ (t.bay s.cur).gen.rd rd = result rd (e.signExtend 64) ∧
          (t.bay s.cur).gen.rd rd2 = result rd2 (a.gc.setWidth 64)))) ∧
  ∀ (rs1 : Reg) (tag : BitVec 12) (s : State),
    let y := s.bay s.cur
    let x := s.ctx y.ctx
    let sh := shedOf s.cur
    let size := 2 ^ x.trlg.toNat * 1024
    let base := s.cur.toNat * size
    let next := leNat (s.load sh 15 y.ctx 0xFFFFFB base 8).1
    let dropped := leNat (s.load sh 15 y.ctx 0xFFFFFB (base + 8) 8).1
    let record : BitVec 256 := BitVec.ofNat 64 s.now ++ y.gen.rd rs1 ++ y.eseq ++ y.gen.pc.extractLsb' 0 32 ++ 0#20 ++ tag ++
      0#10 ++ y.ctx ++ s.cur ++ 1#8
    (x.tren = 0 → Completes (.trmark rs1 tag) s (retires [] (y.gen.pc + 4) s)) ∧
    (x.tren = 1 → s.ok = true → base + size ≤ 2 ^ 48 → 64 ≤ next → Completes (.trmark rs1 tag) s fun t =>
      retiresBeside [] (y.gen.pc + 4) s t ∧ onlyMemory s t ∧ otherSheds sh s t ∧
        (next + 32 ≤ size → (t.load sh 15 y.ctx 0xFFFFFB base 8).1 = leBytes (next + 32) 8 ∧
          (t.load sh 15 y.ctx 0xFFFFFB (base + next) 32).1 = leBytes record.toNat 32) ∧
        (size < next + 32 → (t.load sh 15 y.ctx 0xFFFFFB base 8).1 = leBytes next 8 ∧
          (t.load sh 15 y.ctx 0xFFFFFB (base + 8) 8).1 = leBytes (dropped + 1) 8))

/-! ### The fairlead (R51, R53, R113 to R128) -/

/-- R53: the fairlead's checks in their order, the first that fails naming the cause; a word that fails none is accepted
or waits. Which queues a word names is R51's. -/
def Obligations.fairlead_checks : Prop :=
  ∀ (kind : Nat) (y : Bay) (w : W32),
    let e := (w.extractLsb' 29 3).toNat
    let target := (w.extractLsb' 26 3).toNat
    let pending (k : Nat) := (y.pend.filter fun p => p.1 == k).length
    let absent := (∃ q, q < 5 ∧ queueExists kind q = false ∧ (if e = 0 then w.getLsbD (19 + q) = true else q + 1 = e)) ∨
      (e = 6 ∧ 1 ≤ target ∧ target ≤ 5 ∧ queueExists kind (target - 1) = false)
    let noQueue := e = 0 ∧ w.extractLsb' 19 5 = 0
    let badTarget := e = 6 ∧ (target = 0 ∨ target = 6 ∨ target = 7)
    let overflow := e = 6 ∧ 2 ≤ pending target
    let count := 1 ≤ e ∧ e ≤ 5 ∧ ∃ n, prefixesOf w = some n ∧ pending e ≠ n
    (e = 7 → y.checkWord kind w = some 48) ∧
    (e ≠ 7 → absent → y.checkWord kind w = some 49) ∧
    (e ≠ 7 → ¬ absent → noQueue → y.checkWord kind w = some 50) ∧
    (e ≠ 7 → ¬ absent → badTarget → y.checkWord kind w = some 51) ∧
    (e ≠ 7 → ¬ absent → ¬ badTarget → overflow → y.checkWord kind w = some 52) ∧
    (e ≠ 7 → ¬ absent → count → y.checkWord kind w = some 53) ∧
    (e ≠ 7 → ¬ absent → ¬ noQueue → ¬ badTarget → ¬ overflow → ¬ count → y.checkWord kind w = none)

/-- R119 to R122: EMIT, EMIT2 and EMITNB accept what passes the checks and has room; EMIT and EMIT2 wait without room,
EMITNB answers 0; a word that fails a check faults with the word in stval. Once ENDF is 1 they are illegal (R365). -/
def Obligations.emits_one_or_two : Prop :=
  ∀ (rs1 rd : Reg) (s : State),
    let y := s.bay s.cur
    let g := y.gen
    let kind := bayKind s.cur
    let w0 := (g.rd rs1).extractLsb' 0 32
    let w1 := (g.rd rs1).extractLsb' 32 32
    let off := g.pc.extractLsb' 0 32
    let taken (rds : List Reg) (t : State) : Prop :=
      onlyBay s.cur s t ∧ accepts w0 off g.srseed g.srstep y (t.bay s.cur) ∧
        genRetires rds (g.pc + 4) g (t.bay s.cur).gen
    (ended s → ∀ i ∈ [Instr.emit rs1, .emit2 rs1, .emitnb rd rs1],
      Completes i s (traps 2 (((encodeGen i).getD 0).setWidth 64) s)) ∧
    (¬ ended s →
      (y.checkWord kind w0 = none → hasRoom y [] w0 → Completes (.emit rs1) s (taken []) ∧
        Completes (.emitnb rd rs1) s fun t => taken [rd] t ∧ (t.bay s.cur).gen.rd rd = result rd 1) ∧
      (y.checkWord kind w0 = none → ¬ hasRoom y [] w0 → Completes (.emit rs1) s (waits (.emit rs1) s) ∧
        Completes (.emitnb rd rs1) s fun t => retires [rd] (g.pc + 4) s t ∧ (t.bay s.cur).gen.rd rd = result rd 0) ∧
      (∀ c, y.checkWord kind w0 = some c → ∀ i ∈ [Instr.emit rs1, .emit2 rs1, .emitnb rd rs1],
        Completes i s (traps c (w0.setWidth 64) s)) ∧
      (y.checkWord kind w0 = none → ∀ m, accepts w0 off g.srseed g.srstep y m →
        (∀ c, m.checkWord kind w1 = some c → Completes (.emit2 rs1) s (traps c (1#32 ++ w1) s)) ∧
        (m.checkWord kind w1 = none → hasRoom y [] w0 → hasRoom y (wordQueues w0) w1 →
          Completes (.emit2 rs1) s fun t => onlyBay s.cur s t ∧
            accepts w1 off g.srseed g.srstep { m with seqNo := y.seqNo + (m.eseq - y.eseq).toNat } (t.bay s.cur) ∧
              (∀ q, q < 5 → q ∉ wordQueues w1 → (t.bay s.cur).queue q = m.queue q) ∧
              genRetires [] (g.pc + 4) g (t.bay s.cur).gen) ∧
        (m.checkWord kind w1 = none → ¬ (hasRoom y [] w0 ∧ hasRoom y (wordQueues w0) w1) →
          Completes (.emit2 rs1) s (waits (.emit2 rs1) s))))

/-- R123 to R128: EMITS accepts one word of its block at each of its boundaries, its registers moving past it, and
retires with the last one, or at once with a count of 0; R115: it waits for room; R126: its faults in their order; R365: once
ENDF is 1 it is illegal. EMITQ counts what a queue can still take. -/
def Obligations.emits_block : Prop :=
  (∀ (rs1 rs2 : Reg) (s : State),
    let y := s.bay s.cur
    let g := y.gen
    let i := Instr.emits rs1 rs2
    let off := g.pc.extractLsb' 0 32
    ((rs1 = 0 ∨ rs2 = 0 ∨ rs1 = rs2 ∨ ended s) → Completes i s (traps 2 (((encodeGen i).getD 0).setWidth 64) s)) ∧
    (rs1 ≠ 0 → rs2 ≠ 0 → rs1 ≠ rs2 → ¬ ended s →
      (g.rd rs2 = 0 → Completes i s (retires [] (g.pc + 4) s)) ∧
      (g.rd rs2 ≠ 0 →
        (∀ c, s.checkAddr s.cur .load (g.rd rs1) 4 = .error c → Completes i s (traps c (g.rd rs1) s)) ∧
        ∀ bs u, genRead s (g.rd rs1) 4 g.zclass.toNat = .ok (bs, u) →
          let w : W32 := BitVec.ofNat 32 (leNat bs)
          let beside (t : State) : Prop := otherBays s.cur s t ∧ onlyMemory s t ∧ homesKept s t
          (∀ c, y.checkWord (bayKind s.cur) w = some c → Completes i s fun t =>
            beside t ∧ trapsBeside c (w.setWidth 64) s t) ∧
          (y.checkWord (bayKind s.cur) w = none → ¬ hasRoom y [] w → Completes i s fun t =>
            beside t ∧ (t.bay s.cur).gen = { g with wait := some (.poll i g.waited) }) ∧
          (y.checkWord (bayKind s.cur) w = none → hasRoom y [] w → Completes i s fun t =>
            let h := (t.bay s.cur).gen
            beside t ∧ accepts w off g.srseed g.srstep y (t.bay s.cur) ∧ onlyRegs [rs1, rs2] g h ∧
              h.rd rs1 = g.rd rs1 + 4 ∧ h.rd rs2 = g.rd rs2 - 1 ∧
              (g.rd rs2 = 1 → h.pc = g.pc + 4 ∧ h.wait = none) ∧
              (g.rd rs2 ≠ 1 → h.pc = g.pc ∧ h.wait = some (.poll i g.waited)))))) ∧
  ∀ (rd rs1 : Reg) (s : State),
    let y := s.bay s.cur
    let q := y.gen.rd rs1
    (4 < q.toNat → Completes (.emitq rd rs1) s (traps 26 q s)) ∧
    (q.toNat ≤ 4 → (y.queue q.toNat).ent.length ≤ 256 → (y.queue q.toNat).wait.length ≤ 12 →
      Completes (.emitq rd rs1) s fun t =>
        retires [rd] (y.gen.pc + 4) s t ∧ (t.bay s.cur).gen.rd rd = result rd
          (if queueExists (bayKind s.cur) q.toNat then
            BitVec.ofNat 64 (268 - (y.queue q.toNat).ent.length - (y.queue q.toNat).wait.length) else 0))

/-- R114, R115: at a QUEUE_TAKE every queue with a free entry takes the oldest word of its list, and the lists keep their
order; under a debug stop the fairlead goes on, since the queues stop as in R377 (the model's reading of R399, log 17). A
ROOM_ACCEPT runs the instruction that waits for room at its bay, which then accepts its word if the room is there. -/
def Obligations.waiting_words_move : Prop :=
  ∀ (b : BayNo) (s : State), s.populated b = true →
    let y := s.bay b
    let r : State := { s with cur := b }
    Completes (.queueTake b) s (fun t =>
      onlyBay b s t ∧
        (t.bay b = { y with mtx := (t.bay b).mtx, vec := (t.bay b).vec, cin := (t.bay b).cin, cout := (t.bay b).cout,
                            cls := (t.bay b).cls }) ∧
        ∀ q, q < 5 →
          let v := y.queue q
          let u := (t.bay b).queue q
          u = { v with wait := u.wait, ent := u.ent } ∧ u.ent ++ u.wait = v.ent ++ v.wait ∧
            u.ent.length = v.ent.length + (if v.ent.length < 256 ∧ v.wait ≠ [] then 1 else 0)) ∧
    (∀ i, y.waitsFor = some i →
      ((∃ r, i = .emit r) ∨ (∃ r, i = .emit2 r) ∨ (∃ r q, i = .emits r q) ∨ (∃ r, i = .tfree r) ∨ i = .taskEnd) →
      Completes (.roomAccept b) s fun t => exec i r = .next t) ∧
    (∀ rs1, y.waitsFor = some (.emit rs1) → ¬ ended r →
      let w := (y.gen.rd rs1).extractLsb' 0 32
      y.checkWord (bayKind b) w = none → hasRoom y [] w → Completes (.roomAccept b) s fun t =>
        onlyBay b r t ∧ accepts w (y.gen.pc.extractLsb' 0 32) y.gen.srseed y.gen.srstep y (t.bay b) ∧
          genRetires [] (y.gen.pc + 4) y.gen (t.bay b).gen) ∧
    (y.waitsFor = none → Completes (.roomAccept b) s fun t => t = s)

/-! ### Tiles (R147 to R164) -/

/-- R157, R149: TALLOC gives the lowest free handle the tile its operands describe, empty and with STATUS 0, at the lowest
run of free lines; it answers −1 without a handle and −2 without a run, and faults where an operand breaks its layout. -/
def Obligations.talloc_completes : Prop :=
  ∀ (rd rs1 rs2 : Reg) (s : State),
    let y := s.bay s.cur
    let v := y.gen.rd rs1
    let p := y.gen.rd rs2
    let fmt : BitVec 4 := v.extractLsb' 24 4
    let rows := (v.extractLsb' 12 12).toNat + 1
    let cols := (v.extractLsb' 0 12).toNat + 1
    let n := rows * ((cols * fmtBits fmt + 511) / 512)
    let free := linesFree s s.cur (p.extractLsb' 63 1) n
    let i := Instr.talloc rd rs1 rs2
    let bad := v.extractLsb' 29 35 ≠ 0 ∨ fmt = 15
    let npc := y.gen.pc + 4
    (bad → Completes i s (traps 26 v s)) ∧
    (¬ bad → p.extractLsb' 60 2 ≠ 0 → Completes i s (traps 26 p s)) ∧
    (¬ bad → p.extractLsb' 60 2 = 0 →
      ((∀ h : Byte, (y.tile h).alloc ≠ 0) → Completes i s fun t =>
        retires [rd] npc s t ∧ (t.bay s.cur).gen.rd rd = result rd (BitVec.allOnes 64)) ∧
      ∀ h : Byte, (y.tile h).alloc = 0 → (∀ k : Byte, k.toNat < h.toNat → (y.tile k).alloc ≠ 0) →
        ((∀ a, ¬ free a) → Completes i s fun t =>
          retires [rd] npc s t ∧ (t.bay s.cur).gen.rd rd = result rd 0xFFFFFFFFFFFFFFFE) ∧
        ∀ a, free a → (∀ k, k < a → ¬ free k) → Completes i s fun t =>
          retiresTiles [rd] npc s t ∧ (t.bay s.cur).gen.rd rd = result rd (h.setWidth 64) ∧
            (∀ k, k ≠ h → (t.bay s.cur).tile k = y.tile k) ∧
            (t.bay s.cur).tile h =
              { alloc := 1, state := 0, level := p.extractLsb' 63 1, autoe := v.extractLsb' 28 1, fmt := fmt,
                rows1 := v.extractLsb' 12 12, cols1 := v.extractLsb' 0 12, base := a, keyv := p.extractLsb' 62 1,
                td := p.extractLsb' 48 12, origin := [p.extractLsb' 0 24, p.extractLsb' 24 24, 0, 0, 0, 0, 0, 0],
                status := 0, passed := 0 })

/-- R158, R159: TFREE places a marker at the end of every existing queue's list, at the current ESEQ, which does not
advance, and makes the tile freeing; without room it waits; a handle that is not allocated is an operand fault. R160, R155:
a queue passes a marker at its head once every earlier word of it has completed; with the last existing queue the handle is
free again, and the pool lines of a level 1 tile read as zero; nothing else of any tile changes. R365: once ENDF is 1, TFREE
is illegal. -/
def Obligations.tiles_freed : Prop :=
  (∀ (rs1 : Reg) (s : State),
    let y := s.bay s.cur
    let g := y.gen
    let v := g.rd rs1
    let h : Byte := v.extractLsb' 0 8
    let i := Instr.tfree rs1
    let bad := v.extractLsb' 8 56 ≠ 0 ∨ (y.tile h).alloc ≠ 1
    let room := ∀ q, q < 5 → queueExists (bayKind s.cur) q = true → (y.queue q).wait.length < 12
    (ended s → Completes i s (traps 2 (((encodeGen i).getD 0).setWidth 64) s)) ∧
    (¬ ended s → bad → Completes i s (traps 26 v s)) ∧
    (¬ ended s → ¬ bad → ¬ room → Completes i s (waits i s)) ∧
    (¬ ended s → ¬ bad → room → Completes i s fun t =>
      let z := t.bay s.cur
      onlyBay s.cur s t ∧ onlyFairlead { y with tiles := z.tiles } z ∧ genRetires [] (g.pc + 4) g z.gen ∧
        z.eseq = y.eseq ∧ z.pend = y.pend ∧
        joins (queueIds (bayKind s.cur))
          { kind := .marker h, eseq := y.eseq, off := g.pc.extractLsb' 0 32, seed := g.srseed, step := g.srstep,
            seqNo := y.seqNo, fork := y.forks } y z ∧
        z.tile h = { y.tile h with alloc := 2 } ∧ ∀ k, k ≠ h → z.tile k = y.tile k)) ∧
  ∀ (b : BayNo) (q : QId) (h : Byte) (e : Entry) (s : State), s.populated b = true → q.toNat < 5 →
    let y := s.bay b
    let u := y.tile h
    let pool (x : State) := (x.shed (shedOf b)).pool
    let last := queueMask (bayKind b) &&& ~~~(u.passed ||| BitVec.ofNat 5 (2 ^ q.toNat)) = 0
    (y.head? q.toNat = some e → e.kind = .marker h → y.canIssue = true → y.idle q.toNat = true →
      Completes (.markerPass b q) s fun t =>
        otherBays b s t ∧ headLeaves q.toNat y (t.bay b) ∧ (∀ k, k ≠ h → (t.bay b).tile k = y.tile k) ∧
          t = { s with bays := t.bays, sheds := t.sheds } ∧ otherSheds (shedOf b) s t ∧
          t.shed (shedOf b) = { s.shed (shedOf b) with pool := pool t } ∧
          (t.bay b).tile h =
            (if last then {} else { u with passed := u.passed ||| BitVec.ofNat 5 (2 ^ q.toNat) }) ∧
          ∀ a, Mem.read (pool t) a =
            if last ∧ u.alloc ≠ 0 ∧ u.level = 1 ∧ u.base * 64 ≤ a ∧ a < (u.base + u.lines) * 64 then 0
            else Mem.read (pool s) a) ∧
    (y.canIssue = false ∨ y.idle q.toNat = false → exec (.markerPass b q) s = .next s)

/-- R161, R164: TINFO, TSTAT and BTST answer from the tile's entry and change nothing else. R162, R163: TWAIT ends when the
state holds, expires at its limit or when the handle is freed meanwhile, and waits otherwise. -/
def Obligations.tile_reads : Prop :=
  (∀ (rd rs1 rs2 : Reg) (s : State),
    let y := s.bay s.cur
    let v := y.gen.rd rs1
    let w := y.gen.rd rs2
    let u := y.tile (v.extractLsb' 0 8)
    let item := (v.extractLsb' 8 4).toNat
    let npc := y.gen.pc + 4
    let answers (i : Instr) (r : Word) := Completes i s fun t => retires [rd] npc s t ∧ (t.bay s.cur).gen.rd rd = result rd r
    (v.extractLsb' 12 52 ≠ 0 ∨ 5 < item → Completes (.tinfo rd rs1) s (traps 26 v s)) ∧
    (v.extractLsb' 12 52 = 0 →
      (item = 0 → answers (.tinfo rd rs1) (if u.alloc = 0 then 0 else
        u.alloc ++ u.state ++ u.level ++ u.autoe ++ u.keyv ++ u.td ++ u.fmt ++ u.rows1 ++ u.cols1 ++ 0#9 ++
          BitVec.ofNat 8 (((u.cols1.toNat + 1) * fmtBits u.fmt + 511) / 512 - 1))) ∧
      (item = 5 → answers (.tinfo rd rs1) (BitVec.ofNat 64 u.base)) ∧
      ∀ k, 1 ≤ k → k ≤ 4 → item = k → answers (.tinfo rd rs1)
        ((u.origin.getD (2 * k - 1) 0).signExtend 32 ++ (u.origin.getD (2 * k - 2) 0).signExtend 32)) ∧
    (v.extractLsb' 8 56 ≠ 0 ∨ u.alloc ≠ 1 → Completes (.tstat rd rs1) s (traps 26 v s) ∧
      Completes (.btst rd rs1 rs2) s (traps 26 v s)) ∧
    (v.extractLsb' 8 56 = 0 → u.alloc = 1 → answers (.tstat rd rs1) (u.status.setWidth 64) ∧
      (w.extractLsb' 9 55 ≠ 0 → Completes (.btst rd rs1 rs2) s (traps 26 w s)) ∧
      (w.extractLsb' 9 55 = 0 →
        (w.getLsbD 8 = true → answers (.btst rd rs1 rs2)
          (if u.status.extractLsb' 0 8 &&& w.extractLsb' 0 8 = w.extractLsb' 0 8 then 1 else 0)) ∧
        (w.getLsbD 8 = false → answers (.btst rd rs1 rs2)
          (if u.status.extractLsb' 0 8 &&& w.extractLsb' 0 8 ≠ 0 then 1 else 0))))) ∧
  ∀ (rs1 rs2 : Reg) (s : State),
    let y := s.bay s.cur
    let g := y.gen
    let v := g.rd rs1
    let u := y.tile (v.extractLsb' 0 8)
    let i := Instr.twait rs1 rs2
    let bad := v.extractLsb' 10 54 ≠ 0 ∨ (u.alloc = 0 ∧ g.wait = none)
    let holds := u.alloc ≠ 0 ∧ u.state = v.extractLsb' 8 2
    let expired := u.alloc = 0 ∨ (g.rd rs2).toNat ≤ g.waited
    (bad → Completes i s (traps 26 v s)) ∧
    (¬ bad → holds → Completes i s (retires [] (g.pc + 4) s)) ∧
    (¬ bad → ¬ holds → expired → Completes i s
      (traps 27 (3#8 ++ 0#42 ++ u.alloc ++ u.state ++ v.extractLsb' 8 2 ++ v.extractLsb' 0 8) s)) ∧
    (¬ bad → ¬ holds → ¬ expired → Completes i s (waits i s))

/-! ### Buffers, capabilities, descriptors (R165 to R182) -/

/-- R174, R165, R186: CAP.NEW gives the lowest empty slot a capability to a new buffer under the lowest free id, which takes
the context's incarnation counter and holds free values of a seed of its own (log 6); it answers −1, −2 or −3 in this order,
the frames that −2 counts being those of each loft as the model gives them (log 49), and faults where an operand breaks its
layout. The yard acknowledges it afterwards (R173). -/
def Obligations.cap_new_completes : Prop :=
  ∀ (rd rs1 rs2 : Reg) (s : State),
    let y := s.bay s.cur
    let x := s.ctx y.ctx
    let v := y.gen.rd rs1
    let p := y.gen.rd rs2
    let i := Instr.capNew rd rs1 rs2
    let f : Buf := { size := v.toNat, pin := p.extractLsb' 4 1, loft := p.extractLsb' 5 3, pg2m := p.extractLsb' 8 1,
                     byNew := true }
    let bad := v = 0 ∨ 2 ^ 48 < v.toNat
    let full := (x.mquota ≠ 0 ∧ x.mquota.toNat * 2 ^ 20 < x.mused.toNat + f.pageTotal) ∨ s.framesFree f = false
    (bad → Completes i s (traps 26 v s)) ∧
    (¬ bad → p.extractLsb' 9 55 ≠ 0 → Completes i s (traps 26 p s)) ∧
    (¬ bad → p.extractLsb' 9 55 = 0 →
      ((∀ k, k < 63 → y.caps.find? k ≠ none) → Completes i s fun t =>
        onlyBay s.cur s t ∧ asks i { rd := rd, val := BitVec.allOnes 64 } s t ∧ (t.bay s.cur).caps = y.caps) ∧
      ∀ n, n < 63 → y.caps.find? n = none → (∀ k, k < n → y.caps.find? k ≠ none) →
        (full → Completes i s fun t => onlyBay s.cur s t ∧ asks i { rd := rd, val := 0xFFFFFFFFFFFFFFFE } s t ∧
          (t.bay s.cur).caps = y.caps) ∧
        (¬ full → (2 ^ 48 ≤ x.incs ∨ ∀ k, k < 0xFFFFF0 → s.buf? y.ctx (BitVec.ofNat 24 k) ≠ none) →
          Completes i s fun t => onlyBay s.cur s t ∧ asks i { rd := rd, val := 0xFFFFFFFFFFFFFFFD } s t ∧
            (t.bay s.cur).caps = y.caps) ∧
        (¬ full → x.incs < 2 ^ 48 → ∀ id : BufId, id.toNat < 0xFFFFF0 → s.buf? y.ctx id = none →
          (∀ k : BufId, k.toNat < id.toNat → s.buf? y.ctx k ≠ none) → Completes i s fun t =>
            asks i { rd := rd, val := BitVec.ofNat 64 n } s t ∧
              t = { s with bays := t.bays, freeCtr := s.freeCtr + 1,
                           yard := { s.yard with bufs := t.yard.bufs, ctxs := t.yard.ctxs } } ∧
              (∀ k, k / 2 ^ 24 = n → ∀ e ∈ (t.bay s.cur).look, e.1 ≠ k) ∧ onlyCap n (some { buf := id, rights := p.extractLsb' 0 4 }) s t ∧
              onlyBuf y.ctx id (some { f with inc := BitVec.ofNat 48 x.incs, seed := some s.freeCtr }) s t ∧
              ∀ k, t.ctx k = if k = y.ctx then
                { x with incs := x.incs + 1, mused := x.mused + BitVec.ofNat 48 f.pageTotal } else s.ctx k))

/-- R175, R172: CAP.SHARE and CAP.XFER put the capability, its rights masked, into an empty argument slot of a task of the
context that is not dispatched; the first counts one reference more, the second empties its own slot: once judged it waits
until no memory word is under way, then releases every class at PACKAGE scope, and its target is judged again; the wait and
the release stand when that fails. Their faults stand in their order; that CAP.SHARE of a buffer whose count is 0xFFFF_FFFF
puts rs2's value into stval is the model's choice (log 71). CAP.XFER drops its slot's lookaside entries (R171). -/
def Obligations.cap_moves_complete : Prop :=
  ∀ (rs1 rs2 : Reg) (s : State),
    let y := s.bay s.cur
    let v := y.gen.rd rs1
    let p := y.gen.rd rs2
    let task : TaskId := p.extractLsb' 0 16
    let j := (p.extractLsb' 16 3).toNat
    let x := s.slot task
    let cap := if v = 63 then some { buf := y.code, rights := 1 } else y.caps.find? v.toNat
    let share := Instr.capShare rs1 rs2
    let xfer := Instr.capXfer rs1 rs2
    let badP := p.extractLsb' 23 41 ≠ 0 ∨ 6 ≤ j
    let fits := (x.state = .waiting ∨ x.state = .ready) ∧ x.ctx = y.ctx ∧ x.capm.getLsbD j = false
    let slotAt : Word := BitVec.ofNat 64 (v.toNat * 2 ^ 58)
    let waiting := ∃ n, y.gen.wait = some (.poll xfer n)
    let u := s.release (shedOf s.cur) 0x7FFF 2
    (v.extractLsb' 6 58 ≠ 0 → Completes share s (traps 26 v s) ∧ Completes xfer s (traps 26 v s)) ∧
    (v.extractLsb' 6 58 = 0 → badP → Completes share s (traps 26 p s) ∧ Completes xfer s (traps 26 p s)) ∧
    (v.extractLsb' 6 58 = 0 → ¬ badP →
      (cap = none → Completes share s (traps 24 slotAt s) ∧ Completes xfer s (traps 24 slotAt s)) ∧
      ∀ c, cap = some c →
        (c.rights.getLsbD 3 = false → Completes share s (traps 24 slotAt s)) ∧
        (c.rights.getLsbD 2 = false → Completes xfer s (traps 24 slotAt s)) ∧
        (c.rights.getLsbD 3 = true → ¬ fits → Completes share s (traps 26 p s)) ∧
        (c.rights.getLsbD 2 = true → ¬ waiting → ¬ fits → Completes xfer s (traps 26 p s)) ∧
        (c.rights.getLsbD 3 = true → fits → ∀ f, s.buf? y.ctx c.buf = some f →
          (f.count = 0xFFFFFFFF → Completes share s (traps 26 p s)) ∧
          (f.count ≠ 0xFFFFFFFF → Completes share s fun t =>
            asks share {} s t ∧ (t.bay s.cur).caps = y.caps ∧
              t = { s with bays := t.bays, yard := { s.yard with bufs := t.yard.bufs, slots := t.yard.slots } } ∧
              onlyBuf y.ctx c.buf (some { f with count := f.count + 1 }) s t ∧
              onlySlot task (withArg x j c.buf (c.rights &&& p.extractLsb' 19 4)) s t)) ∧
        (c.rights.getLsbD 2 = true → waiting ∨ fits → y.memoryDone = false → Completes xfer s (waits xfer s)) ∧
        (c.rights.getLsbD 2 = true → waiting → ¬ fits → y.memoryDone = true → Completes xfer s fun t =>
          otherBays s.cur s t ∧ t = { u with bays := t.bays } ∧
            t.bay s.cur = { y with gen := (t.bay s.cur).gen, forks := y.forks + 1 } ∧
            trapEntered 26 p y.gen (t.bay s.cur).gen) ∧
        (c.rights.getLsbD 2 = true → fits → y.memoryDone = true → Completes xfer s fun t =>
          asks xfer {} s t ∧ (t.bay s.cur).forks = y.forks + 1 ∧
            t = { u with bays := t.bays, yard := { s.yard with slots := t.yard.slots } } ∧
            (∀ e, e ∈ (t.bay s.cur).look ↔ e ∈ y.look ∧ e.1 / 2 ^ 24 ≠ v.toNat) ∧
            onlyCap v.toNat none s t ∧ onlySlot task (withArg x j c.buf (c.rights &&& p.extractLsb' 19 4)) s t))

/-- R176, R177, R169, R172: CAP.DROP empties its slot and takes one reference off the buffer, which is retired with its
last; CAP.NARROW masks the rights of a slot; both wait until no memory word is under way, and fault on slot 63 or an
empty one. Its lookaside entries go with a slot's capability (R171). CAPABILITY_WAIT_DONE, the model's event for the end of
that wait (log 2), runs what waits so, to its end. -/
def Obligations.cap_ends_complete : Prop :=
  ∀ (rs1 rs2 : Reg) (s : State),
    let y := s.bay s.cur
    let v := y.gen.rd rs1
    let p := y.gen.rd rs2
    let drop := Instr.capDrop rs1
    let narrow := Instr.capNarrow rs1 rs2
    let slotAt : Word := BitVec.ofNat 64 (v.toNat * 2 ^ 58)
    (v.extractLsb' 6 58 ≠ 0 → Completes drop s (traps 26 v s) ∧ Completes narrow s (traps 26 v s)) ∧
    (v.extractLsb' 6 58 = 0 → p.extractLsb' 4 60 ≠ 0 → Completes narrow s (traps 26 p s)) ∧
    (v.extractLsb' 6 58 = 0 → v = 63 ∨ y.caps.find? v.toNat = none → Completes drop s (traps 24 slotAt s) ∧
      (p.extractLsb' 4 60 = 0 → Completes narrow s (traps 24 slotAt s))) ∧
    (v.extractLsb' 6 58 = 0 → v ≠ 63 → ∀ c, y.caps.find? v.toNat = some c →
      (y.memoryDone = false → Completes drop s (waits drop s) ∧
        (p.extractLsb' 4 60 = 0 → Completes narrow s (waits narrow s))) ∧
      (y.memoryDone = true →
        (∀ f, s.buf? y.ctx c.buf = some f → Completes drop s fun t =>
          asks drop {} s t ∧ onlyCap v.toNat none s t ∧
            (∀ e, e ∈ (t.bay s.cur).look ↔ e ∈ y.look ∧ e.1 / 2 ^ 24 ≠ v.toNat) ∧
            onlyBuf y.ctx c.buf (if f.count ≤ 1 then none else some { f with count := f.count - 1 }) s t ∧
            t.yard = { s.yard with bufs := t.yard.bufs, ctxs := t.yard.ctxs } ∧
            (1 < f.count → t = { s with bays := t.bays, yard := t.yard } ∧ ∀ k, t.ctx k = s.ctx k)) ∧
        (p.extractLsb' 4 60 = 0 → Completes narrow s fun t =>
          onlyBay s.cur s t ∧ genRetires [] (y.gen.pc + 4) y.gen (t.bay s.cur).gen ∧
            t.bay s.cur = { y with gen := (t.bay s.cur).gen, caps := (t.bay s.cur).caps, look := (t.bay s.cur).look,
                                   hangCount := (t.bay s.cur).hangCount, hangOnce := (t.bay s.cur).hangOnce } ∧
            (∀ e, e ∈ (t.bay s.cur).look ↔ e ∈ y.look ∧ e.1 / 2 ^ 24 ≠ v.toNat) ∧
            onlyCap v.toNat (some { c with rights := c.rights &&& p.extractLsb' 0 4 }) s t))) ∧
    ∀ b : BayNo, s.populated b = true → ∀ i, (s.bay b).waitsFor = some i →
      ((s.bay b).memoryDone = false → Completes (.capabilityWaitDone b) s fun t => t = s) ∧
      ((s.bay b).memoryDone = true →
        ((∃ a c, i = .capXfer a c) ∨ (∃ a, i = .capDrop a) ∨ (∃ a c, i = .capNarrow a c)) →
          Completes (.capabilityWaitDone b) s fun t => exec i { s with cur := b } = .next t)

/-- R178: CAP.INFO's items. The size and count of an empty slot are free values (log 3). R173: the yard's
acknowledgement retires the waiting instruction with its result, or raises the fault it answers. -/
def Obligations.cap_reads_complete : Prop :=
  (∀ (rd rs1 : Reg) (s : State),
    let y := s.bay s.cur
    let v := y.gen.rd rs1
    let slot := (v.extractLsb' 0 6).toNat
    let item := (v.extractLsb' 6 2).toNat
    let cap := if slot = 63 then some { buf := y.code, rights := 1 } else y.caps.find? slot
    let i := Instr.capInfo rd rs1
    let npc := y.gen.pc + 4
    (v.extractLsb' 8 56 ≠ 0 ∨ item = 3 → Completes i s (traps 26 v s)) ∧
    (v.extractLsb' 8 56 = 0 → cap = none → item = 0 → Completes i s fun t =>
      retires [rd] npc s t ∧ (t.bay s.cur).gen.rd rd = 0) ∧
    (v.extractLsb' 8 56 = 0 → cap = none → item = 1 ∨ item = 2 → Completes i s fun t =>
      retiresBeside [rd] npc s t ∧ t = { s with bays := t.bays, freeCtr := s.freeCtr + 1 }) ∧
    ∀ c f, v.extractLsb' 8 56 = 0 → cap = some c → s.buf? y.ctx c.buf = some f → item ≠ 3 → Completes i s fun t =>
      retires [rd] npc s t ∧ (t.bay s.cur).gen.rd rd = result rd (
        if item = 0 then 1#1 ++ (if f.host.isSome then 1#1 else 0#1) ++ f.pg2m ++ f.pin ++ c.rights ++ f.loft ++ 0#29 ++ c.buf
        else if item = 1 then BitVec.ofNat 64 f.size else f.count.setWidth 64)) ∧
  ∀ (b : BayNo) (s : State) (i : Instr) (a : YardAnswer), s.populated b = true →
    (s.bay b).gen.wait = some (.yard i a) →
    let g := (s.bay b).gen
    (a.ready = false → Completes (.yardAcknowledge b) s fun t => onlyBay b s t ∧ t.bay b = s.bay b) ∧
    (a.ready = true → a.fault = none → Completes (.yardAcknowledge b) s fun t =>
      onlyBay b s t ∧ onlyGen (s.bay b) (t.bay b) ∧ genRetires [a.rd] (g.pc + 4) g (t.bay b).gen ∧
        (t.bay b).gen.rd a.rd = result a.rd a.val) ∧
    ∀ c v, a.ready = true → a.fault = some (c, v) → Completes (.yardAcknowledge b) s fun t =>
      onlyBay b s t ∧ t.bay b = { s.bay b with gen := (t.bay b).gen } ∧ trapEntered c v g (t.bay b).gen

/-- R182, R181, R180: TD.SET and TD.BIND wait until every memory word accepted has issued, then write words of a
descriptor in class 15, the bay's cached copy with them; TD.GET reads one word, from that copy where there is one. -/
def Obligations.descriptors_complete : Prop :=
  ∀ (rd rs1 rs2 : Reg) (s : State), s.ok = true →
    let y := s.bay s.cur
    let v := y.gen.rd rs1
    let a := y.gen.rd rs2
    let id : BitVec 12 := v.extractLsb' 0 12
    let k := (v.extractLsb' 12 5).toNat
    let bad := v.extractLsb' 17 47 ≠ 0 ∨ 24 ≤ k
    let sh := shedOf s.cur
    let npc := y.gen.pc + 4
    let words (x : State) (j : Nat) := leNat (x.load sh 15 y.ctx 0xFFFFFE (192 * id.toNat + 8 * j) 8).1
    let writes (ws : List (Nat × Word)) (t : State) : Prop :=
      let z := t.bay s.cur
      otherBays s.cur s t ∧ genRetires [] npc y.gen z.gen ∧ onlyMemory s t ∧ otherSheds sh s t ∧
        z = { y with gen := z.gen, dcache := z.dcache, hangCount := z.hangCount, hangOnce := z.hangOnce } ∧
        (∀ j, j < 24 → words t j = match ws.find? fun e => e.1 == j with | some e => e.2.toNat | none => words s j) ∧
        ∀ n, z.dcache.find? n = if n = id.toNat then
          (y.dcache.find? n).map fun d => ws.foldl (fun d e => d.set e.1 e.2) d else y.dcache.find? n
    (bad → Completes (.tdSet rs1 rs2) s (traps 26 v s) ∧ Completes (.tdGet rd rs1) s (traps 26 v s) ∧
      Completes (.tdBind rs1 rs2) s (traps 26 v s)) ∧
    (¬ bad → k < 2 → Completes (.tdSet rs1 rs2) s (traps 26 v s)) ∧
    (¬ bad → 2 ≤ k → y.memoryIssued = false → Completes (.tdSet rs1 rs2) s (waits (.tdSet rs1 rs2) s)) ∧
    (¬ bad → 2 ≤ k → y.memoryIssued = true → Completes (.tdSet rs1 rs2) s (writes [(k, a)])) ∧
    (¬ bad → Completes (.tdGet rd rs1) s fun t =>
      let z := t.bay s.cur
      otherBays s.cur s t ∧ genRetires [rd] npc y.gen z.gen ∧ onlyMemory s t ∧ homesKept s t ∧ otherSheds sh s t ∧
        z = { y with gen := z.gen, dcache := z.dcache, hangCount := z.hangCount, hangOnce := z.hangOnce } ∧
        z.gen.rd rd = result rd (match y.dcache.find? id.toNat with
          | some d => d.getD k 0
          | none => BitVec.ofNat 64 (words s k))) ∧
    (¬ bad → k ≠ 0 → Completes (.tdBind rs1 rs2) s (traps 26 v s)) ∧
    (¬ bad → k = 0 → a.extractLsb' 48 10 ≠ 0 → Completes (.tdBind rs1 rs2) s (traps 26 a s)) ∧
    (¬ bad → k = 0 → a.extractLsb' 48 10 = 0 →
      let cap := if a.toNat / 2 ^ 58 = 63 then some { buf := y.code, rights := 1 } else y.caps.find? (a.toNat / 2 ^ 58)
      (cap = none → Completes (.tdBind rs1 rs2) s (traps 24 a s)) ∧
      ∀ c, cap = some c →
        (y.memoryIssued = false → Completes (.tdBind rs1 rs2) s (waits (.tdBind rs1 rs2) s)) ∧
        (y.memoryIssued = true → Completes (.tdBind rs1 rs2) s (writes [(0, a), (1, 1#1 ++ 0#39 ++ c.buf)])))

/-! ### Barriers, rings, sync words (R208 to R223, R231 to R236) -/

/-- R212, R213, R209: BAR.INIT sets a barrier and clears the wait counts of every agent that can name it; BAR.ARRIVE counts
an arrival, the EXP-th of which completes a phase; both fault on an operand that names no barrier the bay may use, and
BAR.ARRIVE on one without EXP. At BAY and SHED scope its release leaves memory and the shed's cache as they are (R195). -/
def Obligations.barriers_complete : Prop :=
  ∀ (rs1 rs2 : Reg) (s : State),
    let y := s.bay s.cur
    let g := y.gen
    let v := g.rd rs1
    let e := g.rd rs2
    let n := (v.extractLsb' 0 7).toNat
    let npc := g.pc + 4
    let bar := s.barrier s.cur n
    let init := Instr.barInit rs1 rs2
    let arrive := Instr.barArrive rs1
    (v.extractLsb' 7 57 ≠ 0 ∨ 95 < n → Completes init s (traps 26 v s) ∧ Completes arrive s (traps 26 v s)) ∧
    (v.extractLsb' 7 57 = 0 → n ≤ 95 →
      (e = 0 ∨ 65535 < e.toNat → Completes init s (traps 26 e s)) ∧
      (0 < e.toNat → e.toNat ≤ 65535 → ¬ mayName s s.cur n → Completes init s (traps 26 v s)) ∧
      (0 < e.toNat → e.toNat ≤ 65535 → mayName s s.cur n → Completes init s fun t =>
        genRetires [] npc g (t.bay s.cur).gen ∧ t = { s with bays := t.bays, sheds := t.sheds } ∧
          onlyBarrier s.cur n { exp := e.setWidth 16, arr := 0, gen := 0, lastBay := 0, lastAg := 0, owner := bar.owner } s t ∧
          (∀ c, onlyCounts (s.bay c) (t.bay c) ∧
            (c ≠ s.cur → (t.bay c).gen = (s.bay c).gen ∧ (t.bay c).bars = (s.bay c).bars ∧
              (t.bay c).hangCount = (s.bay c).hangCount ∧ (t.bay c).hangOnce = (s.bay c).hangOnce)) ∧
          ∀ c agent k, agent < 6 →
            (t.bay c).wcntOf agent k =
              if k = n ∧ (c = s.cur ∨ (64 ≤ n ∧ shedOf c = shedOf s.cur)) ∧ (n < 64 ∨ s.populated c = true) then 0
              else (s.bay c).wcntOf agent k) ∧
      (¬ mayName s s.cur n ∨ bar.exp = 0 → Completes arrive s (traps 26 v s)) ∧
      (mayName s s.cur n → bar.exp ≠ 0 → Completes arrive s fun t =>
        let z := t.bay s.cur
        genRetires [] npc g z.gen ∧ otherBays s.cur s t ∧ t = { s with bays := t.bays, sheds := t.sheds } ∧
          z = { y with gen := z.gen, bars := z.bars, hangCount := z.hangCount, hangOnce := z.hangOnce } ∧
          onlyBarrier s.cur n (arrived bar s.cur 0) s t))

/-- R214, R209, R223, R400: BAR.WAIT consumes a completion of its barrier that it has not yet waited for, and logs it where
the context traces (the cycles waited are those since its first test, log 20); it expires at its limit and waits otherwise,
also when its barrier has been taken from its context while it waits (R396). BAR_WAIT_SATISFIED and WAIT_EXPIRED run the
instruction that waits at their bay. -/
def Obligations.barrier_waits_complete : Prop :=
  (∀ (rs1 rs2 : Reg) (s : State),
    let y := s.bay s.cur
    let g := y.gen
    let v := g.rd rs1
    let n := (v.extractLsb' 0 7).toNat
    let bar := s.barrier s.cur n
    let d := (bar.gen - y.wcntOf 0 n).toNat
    let i := Instr.barWait rs1 rs2
    let waiting := ∃ k, g.wait = some (.poll i k)
    let own := v.extractLsb' 7 57 = 0 ∧ mayName s s.cur n
    let holds := own ∧ 1 ≤ d ∧ d ≤ 2 ^ 15 - 1
    let record : BitVec 256 := BitVec.ofNat 64 s.now ++ BitVec.ofNat 32 (min g.waited (2 ^ 32 - 1)) ++ (y.wcntOf 0 n + 1) ++
      bar.lastBay ++ 0#5 ++ bar.lastAg ++ y.eseq ++ g.pc.extractLsb' 0 32 ++ 0#16 ++ 0#8 ++ BitVec.ofNat 8 n ++ 0#10 ++
      y.ctx ++ s.cur ++ 2#8
    (¬ waiting → ¬ own → Completes i s (traps 26 v s)) ∧
    (holds → Completes i s fun t =>
      let z := t.bay s.cur
      otherBays s.cur s t ∧ genRetires [] (g.pc + 4) g z.gen ∧ onlyMemory s t ∧ otherSheds (shedOf s.cur) s t ∧
        z = { y with gen := z.gen, wcnt := z.wcnt, hangCount := z.hangCount, hangOnce := z.hangOnce } ∧
        (∀ k, z.wcntOf 0 k = if k = n then y.wcntOf 0 n + 1 else y.wcntOf 0 k) ∧ logged record s t) ∧
    (waiting ∨ own → ¬ holds → (g.rd rs2).toNat ≤ g.waited → Completes i s
      (traps 27 (1#8 ++ bar.arr ++ bar.exp ++ bar.gen ++ BitVec.ofNat 8 n) s)) ∧
    (waiting ∨ own → ¬ holds → g.waited < (g.rd rs2).toNat → Completes i s (waits i s))) ∧
  ∀ (b : BayNo) (s : State), s.populated b = true → ∀ i, (s.bay b).waitsFor = some i →
    let g := (s.bay b).gen
    (∀ rs1 rs2 : Reg, i = .barWait rs1 rs2 →
      let n := ((g.rd rs1).extractLsb' 0 7).toNat
      let d := ((s.barrier b n).gen - (s.bay b).wcntOf 0 n).toNat
      (g.rd rs1).extractLsb' 7 57 = 0 → mayName s b n → 1 ≤ d ∧ d ≤ 2 ^ 15 - 1 →
        Completes (.barWaitSatisfied b) s fun t => exec i { s with cur := b } = .next t ∧
          genRetires [] (g.pc + 4) g (t.bay b).gen) ∧
    ∀ rs2 : Reg, ((∃ rs1, i = .twait rs1 rs2) ∨ (∃ rs1, i = .barWait rs1 rs2) ∨ ∃ rd rs1, i = .ringGet rd rs1 rs2) →
      Completes (.waitExpired b) s fun t =>
        if (g.rd rs2).toNat ≤ g.waited then exec i { s with cur := b } = .next t else t = s

/-- R217, R219 to R223: RING.PUT appends a slot, or waits on a full ring; RING.GET takes the next slot that names its bay,
expires or waits; RING.DONE ends the oldest slot got and not yet done, and faults where there is none; RING_SLOT_FREED and
RING_GET_SATISFIED. A put or get whose ring has been taken from its context while it waits goes on waiting, a get to its limit
(R396). A wait, an expiry and a fault move no cursor (R7). That a CUR behind HEAD counts as HEAD in RING.DONE is the model's
reading (log 65). HEAD stands past every slot with no consumer left; where RING.GET looks, caught up with HEAD, is the first
slot that names its bay's position, or TAIL. -/
def Obligations.rings_complete : Prop :=
  (∀ (r : Ring) (p : Nat), (r.tail - r.head).toNat ≤ 64 → p < 16 →
    let mask (k : BitVec 16) := Tab.get 0 r.cmask (k.toNat % 64)
    let h := (r.settle 64).head
    let used := (r.tail - r.head).toNat
    (r.settle 64 = { r with head := h } ∧ (h - r.head).toNat ≤ used ∧
      (∀ k : BitVec 16, k.toNat < (h - r.head).toNat → mask (r.head + k) = 0) ∧ (h = r.tail ∨ mask h ≠ 0)) ∧
    let c0 := if used < (Tab.get 0 r.cur p - r.head).toNat then r.head else Tab.get 0 r.cur p
    let c := r.getCursor p
    (c - c0).toNat ≤ (r.tail - c0).toNat ∧
      (∀ k : BitVec 16, k.toNat < (c - c0).toNat → (mask (c0 + k)).getLsbD p = false) ∧
      (c = r.tail ∨ (mask c).getLsbD p = true)) ∧
  (∀ (rd rs1 rs2 : Reg) (s : State),
    let y := s.bay s.cur
    let g := y.gen
    let v := g.rd rs1
    let n := (v.extractLsb' 0 3).toNat
    let m : BitVec 16 := v.extractLsb' 16 16
    let r := s.ringNow s.cur n
    let p := (posOf s.cur).toNat
    let npc := g.pc + 4
    let put := Instr.ringPut rs1 rs2
    let get := Instr.ringGet rd rs1 rs2
    let done := Instr.ringDone rs1
    let late := (g.rd rs2).toNat ≤ g.waited
    let waiting (i : Instr) := ∃ k, g.wait = some (.poll i k)
    let own := (s.ring s.cur n).owner = some y.ctx
    let runs (rds : List Reg) (q : Ring) (t : State) : Prop :=
      retiresBeside rds npc s t ∧ onlyRing n q s t ∧ t = { s with bays := t.bays, sheds := t.sheds }
    let badPut := v.extractLsb' 32 32 ≠ 0 ∨ v.extractLsb' 3 13 ≠ 0 ∨ m = 0 ∨
      (∃ k, k < 16 ∧ m.getLsbD k = true ∧ (s.liveMask (shedOf s.cur)).getLsbD k = false)
    let bad := v.extractLsb' 3 61 ≠ 0 ∨ ¬ own
    (badPut ∨ (¬ own ∧ ¬ waiting put) → Completes put s (traps 26 v s)) ∧
    (¬ badPut → (own ∧ 64 ≤ (r.tail - r.head).toNat) ∨ (¬ own ∧ waiting put) → Completes put s (waits put s)) ∧
    (¬ badPut → own → (r.tail - r.head).toNat < 64 → Completes put s (runs []
      { r with val := r.val.put (r.tail.toNat % 64) (g.rd rs2), cmask := r.cmask.put (r.tail.toNat % 64) m,
               tail := r.tail + 1 })) ∧
    (bad → Completes done s (traps 26 v s) ∧ (¬ waiting get → Completes get s (traps 26 v s)) ∧
      (waiting get → late → Completes get s
        (traps 27 (2#8 ++ r.head ++ r.tail ++ Tab.get 0 r.cur p ++ BitVec.ofNat 8 n) s)) ∧
      (waiting get → ¬ late → Completes get s (waits get s))) ∧
    (¬ bad →
      let c := r.getCursor p
      (c ≠ r.tail → Completes get s fun t => runs [rd] { r with cur := r.cur.put p (c + 1) } t ∧
        (t.bay s.cur).gen.rd rd = result rd (Tab.get 0 r.val (c.toNat % 64))) ∧
      (c = r.tail → late → Completes get s (traps 27 (2#8 ++ r.head ++ r.tail ++ c ++ BitVec.ofNat 8 n) s)) ∧
      (c = r.tail → ¬ late → Completes get s (waits get s)) ∧
      let cur := r.catchUp (Tab.get 0 r.cur p)
      let d := r.seek p cur 64 (r.catchUp (Tab.get 0 r.dn p))
      (d = cur → Completes done s (traps 26 v s)) ∧
      (d ≠ cur → Completes done s (runs [] { r with
        cmask := r.cmask.put (d.toNat % 64) (Tab.get 0 r.cmask (d.toNat % 64) &&& ~~~(BitVec.ofNat 16 (2 ^ p))),
        dn := r.dn.put p (d + 1) })))) ∧
  (∀ (sh : BitVec 4) (n : BitVec 3) (s : State), Completes (.ringSlotFreed sh n) s fun t =>
    let r := Tab.get {} (s.shed sh).rings n.toNat
    t = { s with sheds := t.sheds } ∧ otherSheds sh s t ∧ t.shed sh = { s.shed sh with rings := (t.shed sh).rings } ∧
      ∀ k, Tab.get {} (t.shed sh).rings k =
        if k = n.toNat then
          (if r.head ≠ r.tail ∧ Tab.get 0 r.cmask (r.head.toNat % 64) = 0 then { r with head := r.head + 1 } else r)
        else Tab.get {} (s.shed sh).rings k) ∧
  ∀ (b : BayNo) (s : State) (rd rs1 rs2 : Reg), s.populated b = true →
    (s.bay b).waitsFor = some (.ringGet rd rs1 rs2) →
    let v := (s.bay b).gen.rd rs1
    let r := s.ringNow b (v.extractLsb' 0 3).toNat
    v.extractLsb' 3 61 = 0 → (s.ring b (v.extractLsb' 0 3).toNat).owner = some (s.bay b).ctx →
      r.getCursor (posOf b).toNat ≠ r.tail →
        Completes (.ringGetSatisfied b) s fun t => exec (.ringGet rd rs1 rs2) { s with cur := b } = .next t ∧
          genRetires [rd] ((s.bay b).gen.pc + 4) (s.bay b).gen (t.bay b).gen

/-- R232, R233, R400: the sync words that act in their own queue: each leaves under its own condition with its own effect,
and stays otherwise, nothing changed but the cycle in which a sy.wait was judged, from which its wait counts (log 20); one
whose barrier has been taken from its context since then stays (R396). -/
def Obligations.sync_words_complete : Prop :=
  ∀ (mask : BitVec 5) (q : Nat) (e : Entry) (s : State), s.curQ.toNat = q → q < 5 → atHead q e s →
    let y := s.bay s.cur
    let own : BitVec 5 := BitVec.ofNat 5 (2 ^ q)
    let idle := y.idle q
    let stays (i : Instr) := Completes i s fun t => onlyBay s.cur s t ∧ t.bay s.cur = y
    let stands (i : Instr) := Completes i s fun t => onlyBay s.cur s t ∧ headStands q e s.now y (t.bay s.cur)
    let leaves (t : State) : Prop := onlyBay s.cur s t ∧ onlyQueues y (t.bay s.cur) ∧ headsLeave own y (t.bay s.cur)
    let refused (i : Instr) := Completes i s fun t =>
      onlyBay s.cur s t ∧ wordFaults q e (y.queue q).issued 1 0 .nothing y (t.bay s.cur)
    Completes (.syNop mask) s leaves ∧
    (∀ token : BitVec 19,
      (token = 0x7FFFF → refused (.syNotify mask token)) ∧
      (token ≠ 0x7FFFF → idle = false → stays (.syNotify mask token)) ∧
      (token ≠ 0x7FFFF → idle = true → Completes (.syNotify mask token) s fun t =>
        onlyBay s.cur s t ∧ onlyQueues y (t.bay s.cur) ∧ ∀ k, k < 5 → (t.bay s.cur).queue k =
          if k = q then { popped (y.queue q) with ntok := token, noff := e.off, neseq := e.eseq } else y.queue k)) ∧
    (∀ n : BitVec 7,
      let bar := s.barrier s.cur n.toNat
      let d := (bar.gen - y.wcntOf (1 + q) n.toNat).toNat
      let own := mayName s s.cur n.toNat
      let holds := own ∧ 1 ≤ d ∧ d ≤ 2 ^ 15 - 1
      let record : BitVec 256 := BitVec.ofNat 64 s.now ++ BitVec.ofNat 32 (min (s.now - e.since.getD s.now) (2 ^ 32 - 1)) ++
        (y.wcntOf (1 + q) n.toNat + 1) ++ bar.lastBay ++ 0#5 ++ bar.lastAg ++ e.eseq ++ e.off ++ 0#16 ++ BitVec.ofNat 8 (1 + q) ++
        0#1 ++ n ++ 0#10 ++ y.ctx ++ s.cur ++ 2#8
      (e.since = none → ¬ own → refused (.syWait mask n)) ∧
      (e.since ≠ none ∨ own → ¬ holds → stands (.syWait mask n)) ∧
      (holds → Completes (.syWait mask n) s fun t =>
        otherBays s.cur s t ∧ onlyQueues y (t.bay s.cur) ∧ onlyMemory s t ∧ otherSheds (shedOf s.cur) s t ∧
          logged record s t ∧
          ∀ k, k < 5 → (t.bay s.cur).queue k = if k = q then
            { popped (y.queue q) with wcnt := (y.queue q).wcnt.put n.toNat (y.wcntOf (1 + q) n.toNat + 1) } else y.queue k)) ∧
    (∀ (scope : BitVec 3) (cls : BitVec 15),
      (cls = 0 ∨ 5 ≤ scope.toNat → refused (.syFence mask scope cls)) ∧
      (cls ≠ 0 → scope.toNat < 5 → idle = false → stays (.syFence mask scope cls)) ∧
      (cls ≠ 0 → scope.toNat < 5 → idle = true → Completes (.syFence mask scope cls) s fun t =>
        let u := s.fence (shedOf s.cur) (cls.setWidth 16) scope.toNat
        t = { u with bays := t.bays } ∧ otherBays s.cur s t ∧ onlyQueues y (t.bay s.cur) ∧ headsLeave own y (t.bay s.cur))) ∧
    let others := ∀ p, p < 5 → y.slipMask.getLsbD p = true → p ≠ q →
      (y.queue q).rnd + (if e.held then 0 else 1) ≤ (y.queue p).rnd + y.slipDepth.toNat
    (y.slipMask.getLsbD q = false → Completes (.syRound mask) s leaves) ∧
    (y.slipMask.getLsbD q = true →
      (e.held = false → idle = false → stays (.syRound mask)) ∧
      (e.held = true → others → Completes (.syRound mask) s leaves) ∧
      (e.held = true → ¬ others → stays (.syRound mask)) ∧
      (e.held = false → idle = true → Completes (.syRound mask) s fun t =>
        onlyBay s.cur s t ∧ onlyQueues y (t.bay s.cur) ∧
          (∀ k, k < 5 → k ≠ q → (t.bay s.cur).queue k = y.queue k) ∧
          ((t.bay s.cur).queue q).rnd = (y.queue q).rnd + 1 ∧
          ((t.bay s.cur).queue q).ent =
            (if ∀ p : Fin 5, y.slipMask.getLsbD p = true → p.val ≠ q →
                (y.queue q).rnd + 1 ≤ (y.queue p.val).rnd + y.slipDepth.toNat
             then (y.queue q).ent.tail else { e with held := true } :: (y.queue q).ent.tail)))

/-- R189, R232, R233: the joined sync words leave together, once every copy is at its head with every word ahead of it
completed, and act once; until then nothing changes but the cycle in which a sy.arrive was judged (log 20), and one whose
barrier has been taken from its context since then stays (R396). A sy.slip's group takes the place of the bay's group (the
model's choice, log 73). SY_ROUND_LEAVE lets a held round go as soon as the group
allows it. -/
def Obligations.joined_words_complete : Prop :=
  (∀ (mask : BitVec 5) (q : Nat) (e : Entry) (s : State), s.curQ.toNat = q → q < 5 → mask.getLsbD q = true → atHead q e s →
    let y := s.bay s.cur
    let joined := ∀ p, p < 5 → mask.getLsbD p = true → y.idle p = true ∧ ∃ x, y.head? p = some x ∧ x.seqNo = e.seqNo
    let stays (i : Instr) := Completes i s fun t => onlyBay s.cur s t ∧ t.bay s.cur = y
    let refused (i : Instr) := Completes i s fun t =>
      onlyBay s.cur s t ∧ wordFaults q e (y.queue q).issued 1 0 .nothing y (t.bay s.cur)
    (¬ joined → stays (.syRdv mask)) ∧
    (joined → Completes (.syRdv mask) s fun t =>
      onlyBay s.cur s t ∧ onlyQueues y (t.bay s.cur) ∧ headsLeave mask y (t.bay s.cur)) ∧
    (∀ n : BitVec 7,
      let bar := s.barrier s.cur n.toNat
      let named := mayName s s.cur n.toNat ∧ bar.exp ≠ 0
      (e.since = none → ¬ named → refused (.syArrive mask n)) ∧
      (e.since ≠ none ∨ named → ¬ (named ∧ joined) → Completes (.syArrive mask n) s fun t =>
        onlyBay s.cur s t ∧ headStands q e s.now y (t.bay s.cur)) ∧
      (named → joined → ∀ low, low < 5 → mask.getLsbD low = true →
        (∀ p, p < low → mask.getLsbD p = false) → Completes (.syArrive mask n) s fun t =>
          otherBays s.cur s t ∧ t = { s with bays := t.bays, sheds := t.sheds } ∧
            onlyQueues { y with bars := (t.bay s.cur).bars } (t.bay s.cur) ∧ headsLeave mask y (t.bay s.cur) ∧
            onlyBarrier s.cur n.toNat (arrived bar s.cur (BitVec.ofNat 3 (1 + low))) s t)) ∧
    ∀ depth : BitVec 4,
      (bayKind s.cur ≠ 5 → refused (.sySlip mask depth)) ∧
      (bayKind s.cur = 5 → ¬ joined → stays (.sySlip mask depth)) ∧
      (bayKind s.cur = 5 → joined → Completes (.sySlip mask depth) s fun t =>
        onlyBay s.cur s t ∧ onlyQueues { y with slipMask := mask, slipDepth := depth } (t.bay s.cur) ∧
          ∀ p, p < 5 → (t.bay s.cur).queue p =
            if mask.getLsbD p then { popped (y.queue p) with rnd := 0 } else y.queue p)) ∧
  ∀ (b : BayNo) (q : QId) (e : Entry) (s : State), s.populated b = true → q.toNat < 5 →
    (s.bay b).head? q.toNat = some e → (s.bay b).canIssue = true → e.held = true →
    let y := s.bay b
    let others := y.slipMask.getLsbD q.toNat = true → ∀ p, p < 5 → y.slipMask.getLsbD p = true →
      (y.queue q.toNat).rnd ≤ (y.queue p).rnd + y.slipDepth.toNat
    (others → Completes (.syRoundLeave b q) s fun t => onlyBay b s t ∧ onlyQueues y (t.bay b) ∧
      headsLeave (BitVec.ofNat 5 (2 ^ q.toNat)) y (t.bay b)) ∧
    (¬ others → Completes (.syRoundLeave b q) s fun t => onlyBay b s t ∧ t.bay b = y)

/-! ### Matrix words (R237 to R268) -/

/-- R243, R248, R151, R240, R250, R260, R261: a matrix word at its head whose tiles are not ready, or whose unit is busy,
stays; one that a check refuses stops the queue, a field value that its entry calls illegal first of all (R55); any other
issues, latching the mx.cfg state, with its first effect on sets and weight buffer: a clearing under CLR, mx.init, mx.zero
or, where no earlier word on the set executes, OVW. R241, R239, R253: of the checks, an array word with OVW = 0 whose set
differs from the latched extents or format is an illegal word; that it names no operand and comes ahead of whatever else is
wrong with it, as SAT = 1 on an FP32 set does, is the model's reading (log 46), and so is that the set counts as the words
issued before will leave it (log 34). An operand tile of another format is one named by its tile. R243: when a unit is
free: for array words no earlier one still has groups or rows to enter the array, and no port word executes on the set; for
port words the port is free and no array word executes on the set; for mx.snap the port is free; for mx.ldw no mx.mmw
executes either. A word's last group has entered once at most ceil(8 / CPG) of its groups are left to retire and their
scales can be read (the model's reading of R267 and R245, log 38); as the next array word issues, what is left of those
before it is known to have entered, with its scales read (R244, log 38). -/
def Obligations.matrix_words_issue : Prop :=
  (∀ (e : Entry) (s : State), atHead 0 e s →
    let y := s.bay s.cur
    let m := y.mx
    let cleared : AccSet := { val := [], afmt := m.cfg.afmt, ms1 := m.cfg.m1, ns1 := m.cfg.n1, gc := 0, pf := 0 }
    let goes (f : Bay → Bay → Bay) := issues 0 f s
    (∀ m1 n1 afmt sa sb, Completes (.mxCfg m1 n1 afmt sa sb) s
      (goes fun y _ => { y with mx := { m with cfg := ⟨m1, n1, afmt, sa, sb⟩ } })) ∧
    (∀ k : BitVec 1,
      (m.port = none → m.arrayOn k = false → Completes (.mxZero k) s
        (goes fun y _ => { y with mx := m.setAcc k cleared })) ∧
      (m.port ≠ none ∨ m.arrayOn k = true → Completes (.mxZero k) s fun t => t = s)) ∧
    ∀ i : Instr, ((∃ p k o c a b, i = .mxMma p k o c a b) ∨ (∃ p k o b c a, i = .mxMmw p k o b c a) ∨
        (∃ p w k o c a b, i = .mxMmh p w k o c a b) ∨ (∃ g o k r c h, i = .mxLdw g o k r c h) ∨
        (∃ k h, i = .mxInit k h) ∨ (∃ f r g k z c h, i = .mxDrain f r g k z c h) ∨ (∃ f, i = .mxRq f) ∨
        (∃ k h, i = .mxSnap k h)) →
      let ready := ∀ h ∈ mxTiles i, (y.tile h).state = 2
      let legal := firstFail (y.mxChecks i) = none
      (i.wf = false → Completes i s (refuses 0 e 1 .nothing s)) ∧
      (i.wf = true → ∀ h, y.missing 0 (mxTiles i) = some h → Completes i s (refuses 0 e 2 (.tile h 0) s)) ∧
      (i.wf = true → y.missing 0 (mxTiles i) = none →
        (¬ ready ∨ s.mayIssue s.cur i = false → Completes i s fun t => t = s) ∧
        (ready → s.mayIssue s.cur i = true →
          (∀ c w, firstFail (y.mxChecks i) = some (c, w) → Completes i s (refuses 0 e (BitVec.ofNat 8 c) w s)) ∧
          (∀ c w, legal → (s.judgeScales s.cur (mxScales i)).1 = .error (c, w) →
            Completes i s (refuses 0 e (BitVec.ofNat 8 c) w s)) ∧
          (∀ sc, legal → (s.judgeScales s.cur (mxScales i)).1 = .ok sc → Completes i s fun t =>
            let u := (s.judgeScales s.cur (mxScales i)).2.issueHead 0
            ∃ (j : MxJob) (js : List MxJob), j.ent = e ∧ j.instr = i ∧ j.upc = 0 ∧ j.cfg = m.cfg ∧ j.index = y.mtx.issued ∧
              j.held = [] ∧ (∀ k, portSet i = some k → j.acc = m.set k) ∧
              js.map (fun x => { x with held := [] }) = m.arrays.map (fun x => { x with held := [] }) ∧
              (portSet i ≠ none ∨ m.arrays = [] → js = m.arrays ∧ (t.bay s.cur).debugStop = false) ∧
              (portSet i = none → ∀ (k : Nat) (x x' : MxJob) (w : MulWord), m.arrays[k]? = some x → js[k]? = some x' →
                mulWord? x.instr = some w →
                if x.held = [] then x'.held.length = w.p.g.toNat - x.upc else x'.held = x.held) ∧
              (portSet i = none → ∀ (x : MxJob) (w : MulWord) (la lb : List Nat) (u1 u2 : State), m.arrays = [x] →
                mulWord? x.instr = some w → x.held = [] → w.p.g.toNat = x.upc + 1 →
                u.scalesA s.cur x w x.upc (x.cfg.m1.toNat + 1) = .ok (la, u1) →
                u1.scalesB s.cur x w x.upc (x.cfg.n1.toNat + 1) = .ok (lb, u2) → js = [{ x with held := [(la, lb)] }]) ∧
              goes (fun y z => { y with debugStop := z.debugStop, mx :=
                match i with
                | .mxLdw g1 so _ clr _ tw =>
                  { m with arrays := js ++ [j],
                           w := if clr = 1 then { data := [], scale := [], fmt := (y.tile tw).fmt, so := so,
                                                  sb := m.cfg.sb, g1 := g1, hi := 0 } else m.w }
                | .mxInit k _ => { m.setAcc k cleared with port := some j }
                | .mxDrain _ _ _ _ _ _ _ | .mxRq _ | .mxSnap _ _ => { m with port := some j }
                | .mxMma _ k ovw _ _ _ | .mxMmw _ k ovw _ _ _ | .mxMmh _ _ k ovw _ _ _ =>
                  { (if ovw = 1 ∧ m.arrayOn k = false then m.setAcc k cleared else m) with arrays := js ++ [j] }
                | _ => m }) t)))) ∧
  (∀ (p : MxPair) (k ovw : BitVec 1) (cl : BitVec 4) (ta tb : Byte) (y : Bay),
    let m := y.mx
    let a := m.set k
    let f := m.shape k
    let same := f = (m.cfg.m1, m.cfg.n1, m.cfg.afmt)
    let applied := if ovw = 1 then m.cfg.afmt else f.2.2
    let u := y.tile ta
    let v := y.tile tb
    let kn := p.g.toNat * pairKd p.fa p.fb
    let i := Instr.mxMma p k ovw cl ta tb
    (m.arrayOn k = false → f = (a.ms1, a.ns1, a.afmt)) ∧
    (∀ js x w, m.arrays = js ++ [x] → mulWord? x.instr = some w → w.set = k → w.ovw = 1 →
      f = (x.cfg.m1, x.cfg.n1, x.cfg.afmt)) ∧
    (ovw = 0 → ¬ same → firstFail (y.mxChecks i) = some (1, .nothing)) ∧
    ((ovw = 1 ∨ same) → p.sat = 1 → applied = 0 → firstFail (y.mxChecks i) = some (1, .nothing)) ∧
    ((ovw = 1 ∨ same) → (p.sat = 0 ∨ applied = 1) →
      (p.fa ≠ u.fmt → firstFail (y.mxChecks i) = some (1, .tile ta 0)) ∧
      (1 ≤ p.g.toNat → p.fa = u.fmt → p.fb = v.fmt → kn ≤ u.cols → kn ≤ v.rows → m.cfg.m1.toNat < u.rows →
        m.cfg.n1.toNat < v.cols →
        (applied = 0 ∨ (fmtIsInt p.fa = true ∧ fmtIsInt p.fb = true ∧ p.ga2 = 0 ∧ p.gb2 = 0)) →
        firstFail (y.mxChecks i) = none))) ∧
  (∀ (b : BayNo) (i : Instr) (s : State),
    let m := (s.bay b).mx
    let allIn := ∀ j ∈ m.arrays, s.entered b j = true
    (∀ w, mulWord? i = some w →
      (s.mayIssue b i = true ↔ allIn ∧ ∀ j, m.port = some j → portSet j.instr ≠ some w.set)) ∧
    (∀ g o k r c h, i = .mxLdw g o k r c h →
      (s.mayIssue b i = true ↔ allIn ∧ ∀ j ∈ m.arrays, ∀ p k ovw kb cl ta, j.instr ≠ .mxMmw p k ovw kb cl ta)) ∧
    (∀ k h, i = .mxSnap k h → (s.mayIssue b i = true ↔ m.port = none)) ∧
    ∀ k, ((∃ h, i = .mxInit k h) ∨ i = .mxZero k ∨ (∃ f r g z c h, i = .mxDrain f r g k z c h) ∨ ∃ f, i = .mxRq f ∧ f.set = k) →
      (s.mayIssue b i = true ↔ m.port = none ∧ ∀ j ∈ m.arrays, ∀ w, mulWord? j.instr = some w → w.set ≠ k)) ∧
  ∀ (b : BayNo) (j : MxJob) (s : State),
    ((∃ g o k r c h, j.instr = .mxLdw g o k r c h) → s.entered b j = false) ∧
    ∀ w, mulWord? j.instr = some w →
      let cpg := pairCpg w.p.fa w.p.fb
      let reads (d : Desc) (g n : Nat) :=
        ∀ r, r ≤ n → s.scaleBad b d [((g * pairKd w.p.fa w.p.fb / 32 : Nat) : Int), (r : Int)] = none
      (s.entered b j = true ↔ j.held ≠ [] ∨ (w.p.g.toNat ≤ j.upc + (8 + cpg - 1) / cpg ∧
        ∀ g, j.upc ≤ g → g < w.p.g.toNat →
          (w.p.ga2 = 1 → reads j.descA g j.cfg.m1.toNat) ∧ (w.p.gb2 = 1 → reads j.descB g j.cfg.n1.toNat)))

/-- R97, R253, R239, R240: a K-group of any array word on an I32 set, integers without scales: every element of the set takes
the sum of its kd products on top, saturated with SAT and wrapped without; GC counts the group, and nothing else of the bay
changes but the word's progress. After the last group of a word, an array word with OVW = 1 that executes behind it on the
same set clears the set before its own first group (R240, R243). R94, R98, R246, R255, R258: a K-group of any array word on
an FP32 set, of finite operands: every element takes the exact sum of its products, times its two scales, on top, rounded
once to nearest even; an exact zero gives a zero. What each word reads as its operands is R238's, R239's, R255's and
R258's. R244, R246, R407: a group one of whose scales lies outside its tensor's dims or buffer, or out of reach, does not
retire: the word stops there with "bounds" or "remote", naming the first such scale of A's rows, then of B's columns; one
that is known to have entered the array retires with the scales it entered with, in a bay that a fault has stopped too, and
whether or not a path still reaches them. -/
def Obligations.integer_group : Prop :=
  (∀ (b : BayNo) (s : State) (j : MxJob) (rest : List MxJob) (w : MulWord),
    let y := s.bay b
    let a := y.mx.set w.set
    let kd := pairKd w.p.fa w.p.fb
    s.populated b = true → y.mx.arrays = j :: rest → mulWord? j.instr = some w → y.halted = false →
      a.afmt = 1 → w.p.ga2 = 0 → w.p.gb2 = 0 → fmtIsInt w.p.fa = true → fmtIsInt w.p.fb = true →
      (∀ p k ovw kb cl ta, j.instr = .mxMmw p k ovw kb cl ta → y.mx.w.fmt = p.fb ∧ y.mx.w.g1 = 0) →
      Completes (.mxGroupRetire b) s fun t =>
        let z := t.bay b
        let h := z.mx.set w.set
        let last := w.p.g.toNat ≤ j.upc + 1
        let next := rest.find? fun x => (mulWord? x.instr).any fun v => v.set == w.set
        let term (r c n : Nat) : ℚ := (s.opA b j r (j.upc * kd + n)).rat * (s.opB b j (j.upc * kd + n) c).rat
        let exact (r c : Nat) : ℚ := (a.elem r c).toInt + ((List.range kd).map (term r c)).sum
        onlyBay b s t ∧ z = { y with mx := z.mx } ∧
          z.mx = { y.mx with acc0 := z.mx.acc0, acc1 := z.mx.acc1, arrays := z.mx.arrays } ∧
          z.mx.set (1 - w.set) = y.mx.set (1 - w.set) ∧
          z.mx.arrays = (if last then rest else { j with upc := j.upc + 1, held := j.held.tail } :: rest) ∧
          (∀ x w, last → next = some x → mulWord? x.instr = some w → w.ovw = 1 →
            h = { val := [], afmt := x.cfg.afmt, ms1 := x.cfg.m1, ns1 := x.cfg.n1, gc := 0, pf := 0 }) ∧
          (¬ last ∨ (∀ x w, next = some x → mulWord? x.instr = some w → w.ovw = 0) →
            h = { a with val := h.val, gc := h.gc, pf := h.pf } ∧
            h.gc = (if a.gc = 0xFFFFFFFF then a.gc else a.gc + 1) ∧ a.pf &&& h.pf = a.pf ∧
            ∀ r c, r ≤ a.ms1.toNat → c ≤ a.ns1.toNat → ∃ n : Int, (n : ℚ) = exact r c ∧
              (w.p.sat = 0 → h.elem r c = BitVec.ofInt 32 n) ∧
              (w.p.sat = 1 → (h.elem r c).toInt = max (-2 ^ 31) (min (2 ^ 31 - 1) n) ∧
                (n ≠ (h.elem r c).toInt → h.pf.getLsbD 5 = true)))) ∧
  (∀ (b : BayNo) (s : State) (j : MxJob) (rest : List MxJob) (w : MulWord) (r c : Nat),
    let y := s.bay b
    let a := y.mx.set w.set
    let idx (r : Nat) : List Int := [((j.upc * pairKd w.p.fa w.p.fb / 32 : Nat) : Int), (r : Int)]
    let firstBad (d : Desc) := s.scaleBad b d (idx r) = some c ∧ ∀ k, k < r → s.scaleBad b d (idx k) = none
    let stops (id : BitVec 12) (d : Desc) := Completes (.mxGroupRetire b) s fun t => onlyBay b s t ∧
      wordFaults 0 j.ent j.index (BitVec.ofNat 8 c) (BitVec.ofNat 32 j.upc) (.tensor id (descCoord d (idx r))) y (t.bay b)
    s.populated b = true → y.mx.arrays = j :: rest → mulWord? j.instr = some w → y.halted = false → j.held = [] →
      (w.p.ga2 = 1 → r ≤ a.ms1.toNat → firstBad j.descA → stops j.idA j.descA) ∧
      (w.p.gb2 = 1 → r ≤ a.ns1.toNat → firstBad j.descB →
        (w.p.ga2 = 1 → ∀ k, k ≤ a.ms1.toNat → s.scaleBad b j.descA (idx k) = none) → stops j.idB j.descB)) ∧
  (∀ (b : BayNo) (s : State) (d : Desc) (i : List Int),
    let n := Desc.rank d
    let bit := descBit d (i.take n)
    let inside := (∀ k, k < n → 0 ≤ i.getD k 0 ∧ i.getD k 0 < Desc.dim d k) ∧ ∀ k, n ≤ k → i.getD k 0 = 0
    let held := 0 ≤ bit ∧ bit + fmtBits (Desc.fmt d) ≤ 8 * (s.bufSize (s.bay b).ctx (Desc.buf d) : Int)
    let reached := s.unreachable (s.bay b).ctx (Desc.buf d) = false
    (¬ (inside ∧ held) → s.scaleBad b d i = some 5) ∧ (inside → held → ¬ reached → s.scaleBad b d i = some 8) ∧
      (inside → held → reached → s.scaleBad b d i = none)) ∧
  (∀ (b : BayNo) (s s1 s2 : State) (j : MxJob) (w : MulWord) (la lb : List Nat),
    let y := s.bay b
    let a := y.mx.set w.set
    let kd := pairKd w.p.fa w.p.fb
    s.populated b = true → y.mx.arrays = [j] → mulWord? j.instr = some w → a.afmt = 0 →
      (y.halted = false ∧ j.held = [] ∧ s.scalesA b j w j.upc a.ms = .ok (la, s1) ∧
          s1.scalesB b j w j.upc a.ns = .ok (lb, s2)) ∨
        ((y.halted = false ∨ ¬ (y.wf.valid = true ∧ y.wf.qid = 0 ∧ y.wf.index = j.index)) ∧
          ∃ l, j.held = (la, lb) :: l) →
      Completes (.mxGroupRetire b) s fun t =>
        let z := t.bay b
        let h := z.mx.set w.set
        let stored (c : Nat) : Val := decodeVal 12 (weightScale y.mx j j.upc c).bits.toNat
        let term (r c n : Nat) : ℚ := (s.opA b j r (j.upc * kd + n)).rat * (s.opB b j (j.upc * kd + n) c).rat
        let sa (r : Nat) : ℚ := if w.p.ga2 = 1 then 2 ^ ((la.getD r 0 : Int) - 127) else 1
        let sb (c : Nat) : ℚ := if w.p.gb2 = 1 then 2 ^ ((lb.getD c 0 : Int) - 127) else (stored c).rat
        let exact (r c : Nat) : ℚ :=
          (decodeVal 12 (a.elem r c).toNat).rat + sa r * sb c * ((List.range kd).map (term r c)).sum
        otherBays b s t ∧ onlyMemory s t ∧ homesKept s t ∧ otherSheds (shedOf b) s t ∧
          z = { y with mx := z.mx, debugStop := z.debugStop } ∧ z.mx.set (1 - w.set) = y.mx.set (1 - w.set) ∧
          z.mx.arrays = (if w.p.g.toNat ≤ j.upc + 1 then [] else [{ j with upc := j.upc + 1, held := j.held.tail }]) ∧
          h = { a with val := h.val, gc := h.gc, pf := h.pf } ∧ h.gc = (if a.gc = 0xFFFFFFFF then a.gc else a.gc + 1) ∧
          ∀ r c, r ≤ a.ms1.toNat → c ≤ a.ns1.toNat → (decodeVal 12 (a.elem r c).toNat).finite = true →
            (w.p.ga2 = 1 → la.getD r 0 < 255) → (w.p.gb2 = 1 → lb.getD c 0 < 255) →
            (w.p.gb2 = 0 → (stored c).finite = true) →
            (∀ n, n < kd → (s.opA b j r (j.upc * kd + n)).finite = true ∧ (s.opB b j (j.upc * kd + n) c).finite = true) →
              (exact r c = 0 → (h.elem r c).setWidth 31 = 0) ∧
              (exact r c ≠ 0 → ∃ (m : Nat) (e : Int), (if exact r c < 0 then -1 else 1) * (m : ℚ) * 2 ^ e = exact r c ∧
                h.elem r c = BitVec.ofNat 32 (roundTo 12 0 0 (decide (exact r c < 0)) m e).bits)) ∧
  ∀ (b : BayNo) (s : State) (j : MxJob) (p : MxPair) (w : MxWin) (k ovw : BitVec 1) (kb : BitVec 9) (cl : BitVec 4) (ta tb : Byte)
    (i n c : Nat),
    let y := s.bay b
    let u := y.tile ta
    let v := y.tile tb
    let chans := p.g.toNat * pairKd p.fa p.fb / ((w.ry1.toNat + 1) * (w.rx1.toNat + 1))
    let tap := n / chans
    let ty := tap / (w.rx1.toNat + 1)
    let tx := tap % (w.rx1.toNat + 1)
    let oy := i / (w.ow1.toNat + 1)
    let ox := i % (w.ow1.toNat + 1)
    let dil := w.dil1.toNat + 1
    let fromA := operandVal p.fa p.so j.cfg.sa (s.tileElem b u (n / u.cols * 128 + i) (n % u.cols))
    let fromB := operandVal p.fb p.so j.cfg.sb (s.tileElem b v (n % v.rows) (n / v.rows * 128 + c))
    (j.instr = .mxMma p k ovw cl ta tb → s.opA b j i n = fromA ∧ s.opB b j n c = fromB) ∧
    (j.instr = .mxMmw p k ovw kb cl ta → s.opA b j i n = fromA ∧ s.opB b j n c =
      if y.mx.w.hi ≤ kb.toNat * 64 + n then .num false 0 0
      else operandVal y.mx.w.fmt y.mx.w.so y.mx.w.sb (Tab.get 0 y.mx.w.data (128 * (kb.toNat * 64 + n) + c)).toNat) ∧
    (j.instr = .mxMmh p w k ovw cl ta tb → s.opB b j n c = fromB ∧ s.opA b j i n =
      operandVal p.fa p.so j.cfg.sa
        (s.tileElem b u ((oy + ty * dil) * (w.ww1.toNat + 1) + ox + tx * dil) (n % chans))) ∧
    ∀ (f : BitVec 4) (so sgn : BitVec 1) (x : Nat), operandVal f so sgn x =
      if so = 1 ∧ fmtIsInt f = true ∧ f ≠ 7 then
        Val.ofInt (if sgn = 1 ∧ 2 ^ fmtBits f ≤ 2 * (x % 2 ^ fmtBits f) then (x % 2 ^ fmtBits f : Nat) - (2 ^ fmtBits f : Nat)
          else (x % 2 ^ fmtBits f : Nat))
      else decodeVal f x

/-- R260 to R266, R244: the rows left of a port word, or of mx.ldw, at MX_LAST_ROW_WRITTEN: mx.init loads its set from the
tile, mx.snap writes the elements of its boundary bit for bit with their status, mx.ldw fills the weight buffer's rows, the
columns that the tile lacks with +0; nothing else changes. R263, R95, R82: mx.drain writes every element of its set, under G3
times its row's and its column's scale exactly, converted once, row by row, and merges the flags pending; R265: mx.rq writes
the requantised elements of an I32 set, rounded once; ZAFT clears the set. -/
def Obligations.matrix_rows_end : Prop :=
  ∀ (b : BayNo) (s : State), s.populated b = true → (s.bay b).halted = false →
    let y := s.bay b
    (∀ (j : MxJob) (k : BitVec 1) (h : Byte), y.mx.port = some j → j.instr = .mxInit k h →
      j.upc ≤ (y.mx.set k).ms1.toNat → Completes (.mxLastRowWritten b 1) s fun t =>
        let z := t.bay b
        let a := y.mx.set k
        let a' := z.mx.set k
        onlyBay b s t ∧ z = { y with mx := z.mx } ∧ z.mx.set (1 - k) = y.mx.set (1 - k) ∧
          z.mx = { y.mx with port := none, acc0 := z.mx.acc0, acc1 := z.mx.acc1 } ∧ a' = { a with val := a'.val } ∧
          ∀ r c, r ≤ a.ms1.toNat → c ≤ a.ns1.toNat →
            a'.elem r c = if j.upc ≤ r then BitVec.ofNat 32 (s.tileElem b (y.tile h) r c) else a.elem r c) ∧
    (∀ (j : MxJob) (k : BitVec 1) (h : Byte), y.mx.port = some j → j.instr = .mxSnap k h →
      j.upc ≤ j.acc.ms1.toNat → j.acc.ms1.toNat < (y.tile h).rows → j.acc.ns1.toNat < (y.tile h).cols →
      (y.tile h).fmt = (if j.acc.afmt = 0 then 12 else 4) → Completes (.mxLastRowWritten b 1) s fun t =>
        let z := t.bay b
        let u := y.tile h
        otherBays b s t ∧ t = { s with bays := t.bays, sheds := t.sheds } ∧ otherSheds (shedOf b) s t ∧
          t.shed (shedOf b) = { s.shed (shedOf b) with pool := (t.shed (shedOf b)).pool } ∧
          z = { y with store := z.store, tiles := z.tiles, mx := { y.mx with port := none } } ∧
          (∀ g, z.tile g = if g = h then
            { u with status := mkStatus (min j.acc.gc.toNat 16383) (stSatc u.status) (stFlags u.status ||| j.acc.pf) }
            else y.tile g) ∧
          (∀ r c, r < u.rows → c < u.cols → t.tileElem b (z.tile h) r c =
            if j.upc ≤ r ∧ r ≤ j.acc.ms1.toNat ∧ c ≤ j.acc.ns1.toNat then (j.acc.elem r c).toNat else s.tileElem b u r c) ∧
          ∀ p, ¬ (u.base * 64 ≤ p ∧ p < (u.base + u.lines) * 64) →
            Mem.read (t.tileMem b u) p = Mem.read (s.tileMem b u) p) ∧
    (∀ (j : MxJob) (f : MxRq) (h : Byte) (k zaft : BitVec 1) (fd : BitVec 4) (out : Nat → Nat → Res), y.mx.port = some j →
      ((∃ rnd cl, j.instr = .mxDrain fd rnd 0 k zaft cl h ∧ fmtOk fd = true ∧ fd ≠ 7 ∧
          out = fun r c => convert fd rnd.toNat (keyedTile (y.tile h) j.key j.ent.seed j.ent.step r c)
            (decodeVal (if (y.mx.set k).afmt = 0 then 12 else 4) ((y.mx.set k).elem r c).toNat)) ∨
        (j.instr = .mxRq f ∧ h = f.td ∧ k = f.set ∧ zaft = f.zaft ∧ (y.mx.set k).afmt = 1 ∧
          fd = (if f.osgn = 1 then 0 else 1) ∧
          (j.upc = (y.mx.set k).ms1.toNat ∨ (apart (y.tile h) (y.tile f.tm) ∧ apart (y.tile h) (y.tile f.ts) ∧
            (y.mx.set k).ns1.toNat < (y.tile f.tm).cols ∧ (y.mx.set k).ns1.toNat < (y.tile f.ts).cols ∧
            (f.rsen = 1 → apart (y.tile h) (y.tile f.tr) ∧ (y.mx.set k).ms1.toNat < (y.tile f.tr).rows))) ∧
          out = fun r c =>
            let acc := ((y.mx.set k).elem r c).toInt
            let mult := intOf 4 (s.tileElem b (y.tile f.tm) 0 c)
            let sh := min (s.tileElem b (y.tile f.ts) 0 c) 63
            let v := if f.rsen = 1 then acc - f.z.toInt * intOf 4 (s.tileElem b (y.tile f.tr) r 0) else acc
            let n := v * mult + f.oz.toInt * 2 ^ sh
            roundTo fd f.rnd.toNat (keyedTile (y.tile h) j.key j.ent.seed j.ent.step r c) (decide (n < 0)) n.natAbs
              (-(sh : Int)))) →
      j.upc ≤ (y.mx.set k).ms1.toNat → (y.mx.set k).ms1.toNat < (y.tile h).rows → (y.mx.set k).ns1.toNat < (y.tile h).cols →
      (y.tile h).fmt = fd → Completes (.mxLastRowWritten b 1) s fun t =>
        let z := t.bay b
        let u := y.tile h
        let a := y.mx.set k
        let cells := (List.range (a.ms1.toNat + 1 - j.upc)).flatMap fun r => (List.range (a.ns1.toNat + 1)).map fun c =>
          out (j.upc + r) c
        otherBays b s t ∧ t = { s with bays := t.bays, sheds := t.sheds } ∧ otherSheds (shedOf b) s t ∧
          t.shed (shedOf b) = { s.shed (shedOf b) with pool := (t.shed (shedOf b)).pool } ∧
          z = { y with store := z.store, tiles := z.tiles, mx := { y.mx.setAcc k (if zaft = 1 then
            { val := [], afmt := a.afmt, ms1 := a.ms1, ns1 := a.ns1, gc := 0, pf := 0 } else { a with pf := 0 }) with
              port := none } } ∧
          (∀ g, g ≠ h → z.tile g = y.tile g) ∧ z.tile h = { u with status := (z.tile h).status } ∧
          stGcnt (z.tile h).status = stGcnt u.status ∧
          stFlags (z.tile h).status = cells.foldl (fun fl x => fl ||| x.flags) (stFlags u.status ||| a.pf) ∧
          stSatc (z.tile h).status = min 1023 (stSatc u.status + (cells.map Res.satc).sum) ∧
          (∀ r c, r < u.rows → c < u.cols → t.tileElem b (z.tile h) r c =
            if j.upc ≤ r ∧ r ≤ a.ms1.toNat ∧ c ≤ a.ns1.toNat then (out r c).bits else s.tileElem b u r c) ∧
          ∀ p, ¬ (u.base * 64 ≤ p ∧ p < (u.base + u.lines) * 64) →
            Mem.read (t.tileMem b u) p = Mem.read (s.tileMem b u) p) ∧
    (∀ (j : MxJob) (k zaft : BitVec 1) (fd : BitVec 4) (rnd : BitVec 3) (cl : BitVec 4) (h : Byte) (x : Nat) (cs : List Nat)
        (s1 s2 : State), y.mx.port = some j → j.instr = .mxDrain fd rnd 1 k zaft cl h → fmtOk fd = true → fd ≠ 7 →
      j.upc ≤ (y.mx.set k).ms1.toNat → (y.mx.set k).ms1.toNat < (y.tile h).rows → (y.mx.set k).ns1.toNat < (y.tile h).cols →
      (y.tile h).fmt = fd → s.readScales b cl.toNat j.descA [[(j.upc : Int)]] = .ok ([x], s1) →
      s1.readScales b cl.toNat j.descB ((List.range ((y.mx.set k).ns1.toNat + 1)).map fun (c : Nat) => [(c : Int)]) =
        .ok (cs, s2) →
      let u := y.tile h
      let a := y.mx.set k
      let left (mx : Mx) (t : State) : Prop :=
        let z := t.bay b
        otherBays b s t ∧ onlyMemory s t ∧ homesKept s t ∧ otherSheds (shedOf b) s t ∧
          z = { y with store := z.store, tiles := z.tiles, debugStop := z.debugStop, mx := mx } ∧
          (∀ g, g ≠ h → z.tile g = y.tile g) ∧
          ∀ r c, r < u.rows → c < u.cols → (r ≠ j.upc ∨ a.ns1.toNat < c → t.tileElem b (z.tile h) r c = s.tileElem b u r c) ∧
            ∀ n1 m1 e1 n2 m2 e2 n3 m3 e3, r = j.upc → c ≤ a.ns1.toNat →
              decodeVal (if a.afmt = 0 then 12 else 4) (a.elem r c).toNat = .num n1 m1 e1 →
              decodeVal 12 x = .num n2 m2 e2 → decodeVal 12 (cs.getD c 0) = .num n3 m3 e3 →
              t.tileElem b (z.tile h) r c = (roundTo fd rnd.toNat
                (keyedTile u j.key j.ent.seed j.ent.step r c) ((n1 != n2) != n3) (m1 * m2 * m3) (e1 + e2 + e3)).bits
      (j.upc = a.ms1.toNat → Completes (.mxLastRowWritten b 1) s (left { y.mx.setAcc k (if zaft = 1 then
          { val := [], afmt := a.afmt, ms1 := a.ms1, ns1 := a.ns1, gc := 0, pf := 0 } else { a with pf := 0 }) with
            port := none })) ∧
        (j.upc < a.ms1.toNat → left { y.mx with port := some { j with upc := j.upc + 1 } } (s.stepPort b) ∧
          exec (.mxLastRowWritten b 1) s = exec (.mxLastRowWritten b 1) (s.stepPort b))) ∧
    (∀ (j : MxJob) (before : List MxJob) (g1 so clr : BitVec 1) (koff : BitVec 9) (cl : BitVec 4) (h : Byte) (cs fs : List Nat)
        (s1 s2 : State), y.mx.arrays = before ++ [j] → (∀ x ∈ before, mulWord? x.instr ≠ none) →
      j.instr = .mxLdw g1 so koff clr cl h → j.upc < (y.tile h).rows → (y.tile h).rows ≤ 4096 → (y.tile h).cols ≤ 128 →
      let u := y.tile h
      let loads := y.mx.w.g1 = 1 ∧ (j.upc % 64 = 0 ∨ j.again = true)
      let at' (n : Nat) : List (List Int) := (List.range u.cols).map fun (c : Nat) => [(n : Int), (c : Int)]
      (loads → s.readScales b cl.toNat j.descA (at' (j.upc / 64)) = .ok (cs, s1) ∧
        s1.readScales b cl.toNat j.descB (at' (j.upc / 16384)) = .ok (fs, s2)) →
      let row := koff.toNat * 64 + j.upc
      let cell (w : Weights) (r c : Nat) := Tab.get 0 w.data (128 * r + c)
      let scale (w : Weights) (k c : Nat) := Tab.get {} w.scale (128 * k + c)
      let scaled (c : Nat) (o : WScale) : Prop :=
        let f := decodeVal 12 (fs.getD c 0)
        let code := cs.getD c 0 % 256
        (f.isNaN = true → o = { bits := 0x7FC00000, flags := flNANIN }) ∧
          (f.isNaN = false → code = 0 ∨ f.isZero = true → o = { bits := if f.isNeg then 0x80000000 else 0, flags := 0 }) ∧
          (f.isNaN = false → f.finite = false → code ≠ 0 →
            o = { bits := if f.isNeg then 0xFF800000 else 0x7F800000, flags := 0 }) ∧
          (f.finite = true → f.isZero = false → code ≠ 0 → roundsTo 12 0 0 (f.rat * code / 255) ⟨o.bits.toNat, o.flags, 0⟩)
      let left (rest : List MxJob) (t : State) : Prop :=
        let z := t.bay b
        otherBays b s t ∧ onlyMemory s t ∧ homesKept s t ∧ otherSheds (shedOf b) s t ∧ (¬ loads → onlyBay b s t) ∧
          z = { y with debugStop := z.debugStop, mx := { y.mx with arrays := rest, w := z.mx.w } } ∧
          (¬ loads → z.debugStop = y.debugStop) ∧
          z.mx.w = { y.mx.w with data := z.mx.w.data, scale := z.mx.w.scale, hi := max y.mx.w.hi (row + 1) } ∧
          (∀ r c, c < 128 → cell z.mx.w r c =
            if r = row then (if c < u.cols then BitVec.ofNat 32 (s.tileElem b u j.upc c) else if y.mx.w.fmt = 7 then 7 else 0)
            else cell y.mx.w r c) ∧
          ∀ k c, c < 128 →
            (loads → k = koff.toNat + j.upc / 64 → (c < u.cols → scaled c (scale z.mx.w k c)) ∧
              (u.cols ≤ c → scale z.mx.w k c = { bits := 0x3F800000, flags := 0 })) ∧
            (¬ loads ∨ k ≠ koff.toNat + j.upc / 64 → scale z.mx.w k c = scale y.mx.w k c)
      (j.upc + 1 = u.rows → Completes (.mxLastRowWritten b 0) s (left before)) ∧
        (j.upc + 1 < u.rows → left (before ++ [{ j with upc := j.upc + 1, again := false }]) (s.stepLdw b) ∧
          exec (.mxLastRowWritten b 0) s = exec (.mxLastRowWritten b 0) (s.stepLdw b))) ∧
    ∀ (j : MxJob) (before : List MxJob) (so clr : BitVec 1) (koff : BitVec 9) (cl : BitVec 4) (h : Byte),
      y.mx.arrays = before ++ [j] → (∀ x ∈ before, mulWord? x.instr ≠ none) →
      j.instr = .mxLdw 0 so koff clr cl h → y.mx.w.g1 = 0 →
      j.upc < (y.tile h).rows → (y.tile h).cols ≤ 128 → Completes (.mxLastRowWritten b 0) s fun t =>
        let z := t.bay b
        let u := y.tile h
        let row := koff.toNat * 64
        let cell (w : Weights) (r c : Nat) := Tab.get 0 w.data (128 * r + c)
        onlyBay b s t ∧ z = { y with mx := { y.mx with arrays := before, w := z.mx.w } } ∧
          z.mx.w = { y.mx.w with data := z.mx.w.data, hi := max y.mx.w.hi (row + u.rows) } ∧
          ∀ r c, c < 128 → cell z.mx.w r c =
            if row + j.upc ≤ r ∧ r < row + u.rows then
              (if c < u.cols then BitVec.ofNat 32 (s.tileElem b u (r - row) c) else if y.mx.w.fmt = 7 then 7 else 0)
            else cell y.mx.w r c

/-! ### Vector words (R270 to R300) -/

/-- R277, R279, R281, R288: a computing word at the head of vec is refused at once for a field value that its entry calls
illegal (R55); it stays while a tile is not ready or, for an ordered word, a write has still to land; one that a check
refuses stops the queue; any other issues in the earliest engine cycle that its stall count allows (the model's reading of
R277, log 31), its slots latched with the lengths standing then (R272, R276), and only a hazard under CHK stops it, before it
issues where a length has still to land (R278; the model's choice, log 73), or on the way. A word that stands at a hazard
raises it at its next turn (log 31), unless a save or a debug stop holds the bay, or another fault is held; one whose hazard
was resumed goes on from its UPC (R282). -/
def Obligations.vector_words_issue : Prop :=
  (∀ (i : Instr) (w : VxWord) (e : Entry) (s : State), vxWord? i = some w → atHead 1 e s → (s.bay s.cur).vx.stopped = none →
    let y := s.bay s.cur
    let slots := y.vxSlots w
    let tiles := slotTiles slots
    let t0 := max y.vx.clk (y.vx.prevT + y.vx.prevB + 4 * w.s)
    let lens := s.slotLens s.cur slots t0
    let legal := firstFail (s.vxChecks s.cur w (s.vxSrcs s.cur slots lens))
    let late := if vxOrdered w.op = true then none else y.vx.lenHazard slots t0
    let ready := (∀ h ∈ tiles, (y.tile h).state = 2) ∧ (vxOrdered w.op = true → y.vx.pend = [])
    (i.wf = false → Completes i s (refuses 1 e 1 .nothing s)) ∧
    (i.wf = true → ∀ h, y.missing 1 tiles = some h → Completes i s (refuses 1 e 2 (.tile h 0) s)) ∧
    (i.wf = true → y.missing 1 tiles = none → ¬ ready → Completes i s fun t => t = s) ∧
    (i.wf = true → y.missing 1 tiles = none → ready → ∀ c at', legal = some (c, at') →
      Completes i s (refuses 1 e (BitVec.ofNat 8 c) at' s)) ∧
    (i.wf = true → y.missing 1 tiles = none → ready → legal = none → ∀ h p, late = some (h, p) →
      Completes i s (refuses 1 e 6 (.tile h p) s)) ∧
    (i.wf = true → y.missing 1 tiles = none → ready → legal = none → late = none → Completes i s fun t =>
      let z := t.bay s.cur
      issues 1 (fun y z => { y with vx := z.vx }) s t ∧
        z.vx = { y.vx with clk := z.vx.clk, prevT := z.vx.prevT, prevB := z.vx.prevB, pend := z.vx.pend,
                           stopped := z.vx.stopped } ∧
        z.vx.clk = t0 ∧ y.vx.pend <+: z.vx.pend ∧
        (y.vx.chk = 0 ∨ y.vx.pend = [] → z.vx.stopped = none) ∧
        (z.vx.stopped = none ∨ ∃ j, z.vx.stopped = some j ∧ j.ent = e ∧ j.instr = i ∧ j.slots = slots ∧ j.lens = lens ∧
          j.index = y.vec.issued ∧ j.due ≠ none)) ∧
    (∀ r v, slots.find? r = some v → v.kind = 2 → y.vx.pend = [] →
      Tab.get [] lens r = (List.range v.nseg.toNat).map fun k => s.tileLin s.cur (y.tile v.tl) k) ∧
    (∀ h p, y.vx.lenHazard slots t0 = some (h, p) → y.vx.chk = 1 ∧ ∃ r v x, slots.find? r = some v ∧ v.kind = 2 ∧ v.tl = h ∧
      p < v.nseg.toNat ∧ x ∈ y.vx.pend ∧ x.tile = h ∧ t0 < x.land ∧ Tab.find? x.cells p ≠ none)) ∧
  ∀ (i : Instr) (w v : VxWord) (j : VxJob) (s : State), vxWord? i = some w → vxWord? j.instr = some v →
    (s.bay s.cur).vx.stopped = some j →
    let y := s.bay s.cur
    let goes := y.task ≠ none ∧ y.saving = false ∧ y.debugStop = false
    let other := y.wf.valid = true ∧ y.wf.fresh = false
    let on (n : Nat) (f : Option (Byte × Nat)) : VxJob := { j with upc := n, due := f }
    (∀ h p, j.due = some (h, p) →
      (goes → y.wf.valid = false → Completes i s fun t => onlyBay s.cur s t ∧
        wordFaults 1 j.ent j.index 6 (BitVec.ofNat 32 j.upc) (.tile h p) y (t.bay s.cur)) ∧
      (¬ goes ∨ other → Completes i s fun t => onlyBay s.cur s t ∧ t.bay s.cur = y)) ∧
    (j.due = none → (y.task = none → Completes i s fun t => t = s) ∧ (y.task ≠ none → Completes i s fun t =>
      let z := t.bay s.cur
      onlyBay s.cur s t ∧ z = { y with vx := { y.vx with clk := z.vx.clk, prevT := z.vx.prevT, prevB := z.vx.prevB,
                                                         pend := z.vx.pend, stopped := z.vx.stopped } } ∧
        z.vx.clk = max y.vx.clk (y.vx.prevT + y.vx.prevB) ∧ y.vx.pend <+: z.vx.pend ∧
        (y.vx.chk = 0 ∨ y.vx.pend = [] → z.vx.stopped = none) ∧
        (z.vx.stopped = none ∨ ∃ n f, j.upc ≤ n ∧ z.vx.stopped = some (on n (some f)))))

/-- R289, R290, R293 to R296, R273, R276: with no write of an earlier word in flight, a legal fixed-latency word leaves in
flight, for every active element of its destination and for nothing else, the op's result on the elements of its sources
as they stand. R297 to R299: a legal ordered word leaves in flight, for every element that it writes and for nothing else:
a reduction or scan the sum, the least or the greatest of its segment's active elements, so far for a scan, rounded, wrapped
or clamped once; vx.gath and vx.scat the elements that the index slot names, the highest of one index winning, with OOB for
an index outside; vx.cmpct the active elements in order, and their number in element 0 of vb; vx.hist the counters of the
bins that its active elements meet, saturated. That an ordered word whose destination is its own source reads every source
as it stood before the first write is the model's reading (log 31). -/
def Obligations.elementwise_results : Prop :=
  ∀ (i : Instr) (w : VxWord) (e : Entry) (s : State) (d : VxSrc), vxWord? i = some w → i.wf = true →
    atHead 1 e s → (s.bay s.cur).vx.stopped = none → (s.bay s.cur).vx.pend = [] →
    let y := s.bay s.cur
    let slots := y.vxSlots w
    let src := s.vxSrcs s.cur slots (s.slotLens s.cur slots (max y.vx.clk (y.vx.prevT + y.vx.prevB + 4 * w.s)))
    y.missing 1 (slotTiles slots) = none → (∀ h ∈ slotTiles slots, (y.tile h).state = 2) →
    firstFail (s.vxChecks s.cur w src) = none → src.find? 0 = some d → d.stride ≠ 0 →
    let elem (role k : Nat) : Nat :=
      ((src.find? role).map fun v => s.tileLin s.cur (y.tile v.tile) (v.pos k).toNat).getD 0
    let active (k : Nat) : Bool := !w.m || elem 15 k != 0
    let pos (k : Nat) := (d.pos k).toNat
    let keyed (k : Nat) := if w.r = 5 then s.vxKeyed s.cur (s.keyDesc s.cur d.tile).1 e d.tile (pos k) else 0
    (vxOrdered w.op = false → Completes i s fun t =>
      let ps := (t.bay s.cur).vx.pend
      let val (k : Nat) := (vxElement w (keyed k) (elem 1 k) (elem 2 k) (if w.op = 0x14 then elem 15 k else elem 0 k)).bits
      (∀ k, k < d.count → active k = true → ∃ p ∈ ps, p.tile = d.tile ∧ Tab.find? p.cells (pos k) = some (val k)) ∧
        ∀ p ∈ ps, p.tile = d.tile ∧ ∀ c ∈ p.cells, ∃ k, k < d.count ∧ active k = true ∧ c = (pos k, val k)) ∧
    (vxOrdered w.op = true → Completes i s fun t =>
      let ps := (t.bay s.cur).vx.pend
      let n := vxCount w src
      let segs := ((src.find? 1).map vxSegments).getD []
      let start (k : Nat) : Nat := (segs.take k).sum
      let idx (k : Nat) : Int := intOf (((src.find? 2).map VxSrc.fmt).getD 0) (elem 2 k)
      let live := (List.range n).filter active
      let from' (lo hi : Nat) : List Nat := (live.filter fun k => decide (lo ≤ k) && decide (k < hi)).map (elem 1)
      let inBin (k bin : Nat) : Prop :=
        if w.mode = 0 then (bin : Int) = max 0 (min ((w.nbin : Int) - 1) (intOf w.t (elem 1 k) - w.base))
        else ∃ neg m x, decodeVal w.t (elem 1 k) = .num neg m x ∧ m ≠ 0 ∧
          (bin : Int) = max 0 (min ((w.nbin : Int) - 1) ((Nat.log2 m : Int) + x - w.base))
      let yields (out : Nat → Prop) (ok : Nat → Nat → Prop) : Prop :=
        (∀ k, out k → ∃ p ∈ ps, p.tile = d.tile ∧ Tab.find? p.cells (pos k) ≠ none) ∧
          ∀ p ∈ ps, ∀ c ∈ p.cells, (p.tile = d.tile ∧ ∃ k, out k ∧ c.1 = pos k ∧ ok k c.2) ∨
            (w.op = 0x32 ∧ ∃ v, src.find? 2 = some v ∧ p.tile = v.tile ∧ c = ((v.pos 0).toNat, live.length % 2 ^ 32))
      let oob := ∃ p ∈ ps, p.tile = d.tile ∧ p.flags.getLsbD 7 = true
      (vxReduces w.op = true → yields (fun k => k < segs.length) fun k v => combined w (keyed k) (from' (start k) (start (k + 1))) v) ∧
      (vxScans w.op = true → yields (fun k => k < n ∧ active k = true) fun k v =>
        ∀ g, start g ≤ k → k < start (g + 1) → combined w (keyed k) (from' (start g) (k + 1)) v) ∧
      (w.op = 0x30 →
        let m : Int := ((src.find? 1).map VxSrc.count).getD 0
        yields (fun k => k < n ∧ active k = true) (fun k v =>
          v = if 0 ≤ idx k ∧ idx k < m then elem 1 (idx k).toNat else 0) ∧
        ((∃ k ∈ live, idx k < 0 ∨ m ≤ idx k) → oob)) ∧
      (w.op = 0x31 →
        yields (fun k => k < d.count ∧ ∃ x ∈ live, idx x = k) (fun k v =>
          ∃ x ∈ live, idx x = k ∧ v = elem 1 x ∧ ∀ z ∈ live, idx z = k → z ≤ x) ∧
        ((∃ k ∈ live, idx k < 0 ∨ (d.count : Int) ≤ idx k) → oob)) ∧
      (w.op = 0x32 → yields (fun k => k < live.length) (fun k v => v = elem 1 (live.getD k 0)) ∧
        ∀ v, src.find? 2 = some v → ∃ p ∈ ps, p.tile = v.tile ∧ Tab.find? p.cells (v.pos 0).toNat = some (live.length % 2 ^ 32)) ∧
      (w.op = 0x33 → yields (fun k => ∃ x ∈ live, inBin x k) fun k v =>
        ∀ hits : List Nat, hits.Nodup → (∀ x, x ∈ hits ↔ x ∈ live ∧ inBin x k) →
          intOf 4 v = min (2 ^ 31 - 1) (intOf 4 (elem 0 k) + hits.length)))

/-- R291: the integer results of the elementwise words, wrapped under O = 0 and clamped under O = 1, with SAT and one count
when clamped; shifts by the width or more; compares, minimum and maximum, bitwise words and selection. R290, R291, R83 to
R86, R79: the floating-point results of vx.add, vx.sub, vx.mul and vx.fma, the exact result rounded once with its flags,
with the zeros, infinities and NaNs; minimum, maximum, magnitude and negation, exact; compares, ±0 equal and NaN unordered.
R293, R82: vx.cvt between any two formats; R294, R295: vx.mov and vx.set bit for bit. R76 to R78, R81: what number an element
stands for. That a NaN that vx.fma reads as its addend beside 0 × ∞ leaves NV too is the model's choice (log 73). -/
def Obligations.vector_integer_results : Prop :=
  (∀ f x, fmtIsFloat f = true → x < 2 ^ fmtBits f →
    let n : Nat := fracBits f
    let neg := x.testBit (fmtBits f - 1)
    let e : Nat := x / 2 ^ n % 2 ^ (fmtBits f - 1 - n)
    let fr : Nat := x % 2 ^ n
    let top := e + 1 = 2 ^ (fmtBits f - 1 - n) ∧ (f = Fmt.e4m3 → fr = 7)
    let u := decodeVal f x
    let is (q : ℚ) : Prop := u.finite = true ∧ u.isNeg = neg ∧ u.rat = if neg then -q else q
    (f.toNat, fmtBits f, n, fmtBias f, canonNaN f) ∈ [(8, 8, 3, 7, 0x7F), (9, 8, 2, 15, 0x7E), (10, 16, 7, 127, 0x7FC0),
      (11, 16, 10, 15, 0x7E00), (12, 32, 23, 127, 0x7FC00000), (13, 16, 9, 31, 0x7F00)] ∧
      (e = 0 → is ((fr : ℚ) * 2 ^ (1 - (fmtBias f : Int) - n))) ∧
      (e ≠ 0 → ¬ top → is (((2 : ℚ) ^ n + fr) * 2 ^ ((e : Int) - fmtBias f - n))) ∧
      (top → fr = 0 → u = .inf neg) ∧ (top → fr ≠ 0 → u = .nan)) ∧
  (∀ f x, fmtIsInt f = true → x < 2 ^ fmtBits f → (decodeVal f x).finite = true ∧ (decodeVal f x).rat = intOf f x ∧
    (f ≠ Fmt.qn4 → (intBounds f).1 ≤ intOf f x ∧ intOf f x ≤ (intBounds f).2 ∧ (intOf f x - (x : Int)) % 2 ^ fmtBits f = 0) ∧
    (f = Fmt.qn4 → [-127, -96, -72, -53, -37, -23, -11, 0, 9, 19, 30, 42, 56, 73, 95, 127][x]? = some (intOf f x))) ∧
  (∀ (w : VxWord) (x y z keyed : Nat),
    let f (op : Nat) : Res := vxElement { w with op := op } keyed x y z
    (fmtST w.t = true → convertsTo w.t w.r keyed (decodeVal w.src x) (f 0x18)) ∧
      f 0x19 = { bits := x, flags := 0, satc := 0 } ∧ f 0x1A = { bits := w.k.toNat, flags := 0, satc := 0 }) ∧
  (∀ (w : VxWord) (x y z keyed : Nat), fmtFA w.t = true → x < 2 ^ fmtBits w.t → y < 2 ^ fmtBits w.t →
    let f (op : Nat) : Res := vxElement { w with op := op } keyed x y z
    let a := decodeVal w.t x
    let b := decodeVal w.t y
    let sign := 2 ^ (fmtBits w.t - 1)
    let rank (v : Nat) : Int := if sign ≤ v then -((v % sign : Nat) : Int) - 1 else v
    let raw (v : Nat) : Res := { bits := v, flags := 0, satc := 0 }
    let truth (p : Prop) (flags : Byte) (o : Res) : Prop := (p → o.bits = 1) ∧ (¬ p → o.bits = 0) ∧ o.flags = flags
    let less := if a.finite && b.finite then a.rat < b.rat else rank x < rank y
    let same := if a.finite && b.finite then a.rat = b.rat else x = y
    (∀ op, op < 4 → floatArith w.t op w.r keyed a b (decodeVal w.t z) (f op)) ∧
      (a.isNaN = true ∨ b.isNaN = true → isNaNRes w.t flNANIN (f 4) ∧ isNaNRes w.t flNANIN (f 5) ∧
        truth False flNANIN (f 0x10) ∧ truth True flNANIN (f 0x11) ∧ truth False flNANIN (f 0x12) ∧
        truth False flNANIN (f 0x13)) ∧
      (a.isNaN = false → b.isNaN = false → f 4 = raw (if rank x ≤ rank y then x else y) ∧
        f 5 = raw (if rank x ≤ rank y then y else x) ∧ truth same 0 (f 0x10) ∧ truth (¬ same) 0 (f 0x11) ∧
        truth less 0 (f 0x12) ∧ truth (less ∨ same) 0 (f 0x13)) ∧
      (a.isNaN = true → isNaNRes w.t flNANIN (f 6) ∧ isNaNRes w.t flNANIN (f 7)) ∧
      (a.isNaN = false → f 6 = raw (x % sign) ∧ f 7 = raw (if sign ≤ x then x - sign else x + sign))) ∧
  ∀ (w : VxWord) (t : Fmt) (x y z keyed : Nat), fmtIA t = true → w.t = t →
    x < 2 ^ fmtBits t → y < 2 ^ fmtBits t →
    let n := fmtBits t
    let a := intOf t x
    let b := intOf t y
    let lo : Int := if fmtIsSigned t then -(2 ^ (n - 1)) else 0
    let hi : Int := if fmtIsSigned t then 2 ^ (n - 1) - 1 else 2 ^ n - 1
    let f (op r : Nat) : Res := vxElement { w with op := op, r := r } keyed x y z
    let arith (op : Nat) (v : Int) : Prop :=
      ((f op 0).bits : Int) % 2 ^ n = v % 2 ^ n ∧ (f op 0).bits < 2 ^ n ∧ (f op 0).flags = 0 ∧
        intOf t (f op 1).bits = max lo (min hi v) ∧ (f op 1).bits < 2 ^ n ∧
        ((f op 1).flags = if lo ≤ v ∧ v ≤ hi then 0 else flSAT) ∧ (f op 1).satc = if lo ≤ v ∧ v ≤ hi then 0 else 1
    arith 0x00 (a + b) ∧ arith 0x01 (a - b) ∧ arith 0x02 (a * b) ∧ arith 0x06 (max a (-a)) ∧ arith 0x07 (-a) ∧
      (f 0x04 0).bits = (if a ≤ b then x else y) ∧ (f 0x05 0).bits = (if a ≤ b then y else x) ∧
      (∀ k, k < n → (f 0x08 0).bits.testBit k = (x.testBit k && y.testBit k) ∧
        (f 0x09 0).bits.testBit k = (x.testBit k || y.testBit k) ∧
        (f 0x0A 0).bits.testBit k = (x.testBit k ^^ y.testBit k) ∧ (f 0x0B 0).bits.testBit k = !x.testBit k) ∧
      (f 0x0C 0).bits = x * 2 ^ y % 2 ^ n ∧ (f 0x0D 0).bits = x / 2 ^ y ∧
      intOf t (f 0x0E 0).bits = a / 2 ^ y ∧
      (f 0x10 0).bits = (if a = b then 1 else 0) ∧ (f 0x11 0).bits = (if a = b then 0 else 1) ∧
      (f 0x12 0).bits = (if a < b then 1 else 0) ∧ (f 0x13 0).bits = (if a ≤ b then 1 else 0) ∧
      (f 0x14 0).bits = (if z ≠ 0 then x else y)

/-- R284 to R287, R271, R272, R276, R105, R106: vx.slot, vx.seg and vx.chk wait for every write to land; a count, stride or
segment number of 0 is refused as an encoding, with no operand named (R55, R378), what is out of bounds with its tile; else
they set a slot or CHK, in the earliest cycle that the stall count allows (log 31). A write that lands sets its elements and
raises its flags, the earliest first. -/
def Obligations.vector_controls_complete : Prop :=
  (∀ (st : BitVec 3) (d : BitVec 4) (h tl : Byte) (off : BitVec 24) (stride n : BitVec 16) (on : BitVec 1) (e : Entry)
      (s : State), atHead 1 e s → (s.bay s.cur).vx.stopped = none →
    let y := s.bay s.cur
    let slot := Instr.vxSlot st d h off stride n
    let seg := Instr.vxSeg st d h tl off n
    let chk := Instr.vxChk st on
    let size : Int := (y.tile h).rows * (y.tile h).cols
    let last : Int := off.toNat + (n.toNat - 1) * stride.toInt
    let fits := (off.toNat : Int) < size ∧ 0 ≤ last ∧ last < size
    let lens := ((List.range n.toNat).map fun k => s.tileLin s.cur (y.tile tl) k).sum
    let segs := (y.tile tl).fmt = 3 ∧ n.toNat ≤ (y.tile tl).rows * (y.tile tl).cols ∧ 1 ≤ lens ∧ lens ≤ 65535
    let at' := max y.vx.clk (y.vx.prevT + y.vx.prevB + 4 * st.toNat)
    let sets (f : Vx → Vx) := issues 1 (fun y _ => { y with vx := f { y.vx with clk := at', prevT := at', prevB := 1 } }) s
    let ready (hs : List Byte) := ∀ g ∈ hs, (y.tile g).state = 2
    (n = 0 ∨ stride = 0 → Completes slot s (refuses 1 e 1 .nothing s)) ∧
    (n = 0 → Completes seg s (refuses 1 e 1 .nothing s)) ∧
    (n ≠ 0 → stride ≠ 0 → ∀ g, y.missing 1 [h] = some g → Completes slot s (refuses 1 e 2 (.tile g 0) s)) ∧
    (n ≠ 0 → ∀ g, y.missing 1 [h, tl] = some g → Completes seg s (refuses 1 e 2 (.tile g 0) s)) ∧
    (y.vx.pend ≠ [] → Completes chk s fun t => t = s) ∧
    (y.vx.pend = [] → Completes chk s (sets fun x => { x with chk := on })) ∧
    (n ≠ 0 → stride ≠ 0 → y.missing 1 [h] = none →
      (y.vx.pend ≠ [] ∨ ¬ ready [h] → Completes slot s fun t => t = s) ∧
      (y.vx.pend = [] → ready [h] → fits → Completes slot s (sets fun x =>
        { x with slots := x.slots.put d.toNat { kind := 1, tile := h, off := off, stride := stride, count := n.toNat } })) ∧
      (y.vx.pend = [] → ready [h] → ¬ fits → Completes slot s (refuses 1 e 1 (.tile h 0) s))) ∧
    (n ≠ 0 → y.missing 1 [h, tl] = none →
      (y.vx.pend ≠ [] ∨ ¬ ready [h, tl] → Completes seg s fun t => t = s) ∧
      (y.vx.pend = [] → ready [h, tl] → segs → Completes seg s (sets fun x =>
        { x with slots := x.slots.put d.toNat { kind := 2, tile := h, off := off, stride := 1, tl := tl, nseg := n } })) ∧
      (y.vx.pend = [] → ready [h, tl] → ¬ segs → Completes seg s (refuses 1 e 1 (.tile tl 0) s)))) ∧
  ∀ (b : BayNo) (k : Nat) (w : VxPend) (s : State), s.populated b = true → (s.bay b).vx.pend[k]? = some w →
    (∀ (j : Nat) (x : VxPend), (s.bay b).vx.pend[j]? = some x → w.land < x.land ∨ (w.land = x.land ∧ k ≤ j)) →
    let y := s.bay b
    let u := y.tile w.tile
    Tab.risesFrom 0 w.cells = true → (∀ c ∈ w.cells, c.1 < u.size) →
    Completes (.vxWriteLand b) s fun t =>
      let z := t.bay b
      otherBays b s t ∧ t = { s with bays := t.bays, sheds := t.sheds } ∧ otherSheds (shedOf b) s t ∧
        t.shed (shedOf b) = { s.shed (shedOf b) with pool := (t.shed (shedOf b)).pool } ∧
        z = { y with store := z.store, tiles := z.tiles, vx :=
          { y.vx with clk := max y.vx.clk w.land, pend := y.vx.pend.eraseIdx k } } ∧
        (∀ g, z.tile g = if g = w.tile then { u with status := raiseStatus u.status w.flags w.satc } else y.tile g) ∧
        (∀ p, p < u.size → t.tileLin b (z.tile w.tile) p = match Tab.find? w.cells p with
          | some v => v % 2 ^ fmtBits u.fmt
          | none => s.tileLin b u p) ∧
        ∀ p, ¬ (u.base * 64 ≤ p ∧ p < (u.base + u.lines) * 64) → Mem.read (t.tileMem b u) p = Mem.read (s.tileMem b u) p

/-! ### Copy words (R302 to R328) -/

/-- R311 to R314, R324: control copies act on the state of their queue, a cp.loop with more than eight levels is refused,
and cp.drain leaves once no copy of its class accepted before it is under way, with nothing left on its way of what such
copies of the bay sent (R103, R107), after a release over that class; of the bay's other parts only a watchpoint's debug
stop is felt (R401), and what fails for want of a path goes back to a copy that still executes (R407, log 24). -/
def Obligations.copy_controls_complete : Prop :=
  ∀ (q : BitVec 1) (e : Entry) (s : State), atHead (2 + q.toNat) e s →
    let y := s.bay s.cur
    let sets (f : Cp → Cp) := issues (2 + q.toNat) (fun y _ => y.modCp q f) s
    (∀ lev dsel cnt1 nlev step,
      (nlev.toNat ≤ 8 → Completes (.cpLoop q lev dsel cnt1 nlev step) s (sets fun c =>
        { c with nlev := nlev, levels := (List.range 8).map fun k =>
            if k = lev.toNat then { dsel := dsel, step := step, cnt := cnt1.toNat + 1 } else c.levels.getD k {} })) ∧
      (8 < nlev.toNat → Completes (.cpLoop q lev dsel cnt1 nlev step) s (refuses (2 + q.toNat) e 1 .nothing s))) ∧
    (∀ val add comp, Completes (.cpOrg q val add comp) s (sets fun c =>
      { c with orgv := 1, org := (List.range 8).map fun k =>
          if k = comp.toNat then (if add = 1 then c.org.getD k 0 + val else val) else c.org.getD k 0 })) ∧
    (∀ pad, Completes (.cpPad q pad) s (sets fun c => { c with pad := pad })) ∧
    ∀ (c : BitVec 4) (scope : BitVec 3),
      let i := if q = 0 then Instr.cpDrainCin c scope else Instr.cpDrain c scope
      (y.drainPending c e.seqNo = true → Completes i s fun t => t = s) ∧
      (y.drainPending c e.seqNo = false → Completes i s fun t =>
        let sent : Sender → Bool := fun x => x.bay == s.cur && x.cls == c && decide (x.seqNo < e.seqNo)
        let u := (s.settle sent).release (shedOf s.cur) (BitVec.ofNat 16 (2 ^ c.toNat)) scope.toNat
        let z := t.bay s.cur
        t = { u with bays := t.bays } ∧ otherBays s.cur s t ∧ arrivedAll sent t ∧
          onlyQueues { y with debugStop := z.debugStop, cpIn := z.cpIn, cpOut := z.cpOut } z ∧
          headsLeave (BitVec.ofNat 5 (2 ^ (2 + q.toNat))) y z ∧
          (s.lostFrom sent = none → z.cpIn = y.cpIn ∧ z.cpOut = y.cpOut) ∧
          (s.onWay sent = false → u = s.release (shedOf s.cur) (BitVec.ofNat 16 (2 ^ c.toNat)) scope.toNat ∧
            z.debugStop = y.debugStop))

/-- R304, R306, R309, R150, R151: a data copy whose tiles are not in the states it needs (a cp.gath that fills its own index
tile asks it for two at once, and a cp.t2t whose source is its destination is judged, and refused, once that tile is ready:
the model's choices, log 64), or behind four executing copies, stays; one that a check refuses stops its queue; any other
issues: its source tile drains, the tile it fills records the tensor, the origin and a clear STATUS, cp.org's origin is used
up, and the word latches nest, pad and descriptors. -/
def Obligations.copy_words_issue : Prop :=
  ∀ (i : Instr) (w : CpWord) (e : Entry) (s : State), cpWord? i = some w → atHead (2 + w.q.toNat) e s →
    let y := s.bay s.cur
    let c := y.cp w.q
    let n := 2 + w.q.toNat
    let ready := (∀ h ∈ w.tiles, if w.into = some h ∧ ¬ (w.op = 6 ∧ w.h = w.h2) then (y.tile h).state = 0
      else (y.tile h).state = 2 ∧ (w.source = some h → y.written h = false)) ∧
      (w.op = 7 → (y.tile w.h2).state = 2) ∧ c.jobs.length < 4
    let org := if c.orgv = 1 then c.org else (y.tile w.shape).origin
    let origin := (List.range 8).map fun k => org.getD k 0
    (∀ h, y.missing n w.tiles = some h → Completes i s (refuses n e 2 (.tile h 0) s)) ∧
    (y.missing n w.tiles = none → ¬ ready → Completes i s fun t => t = s) ∧
    (y.missing n w.tiles = none → ready →
      (∀ x at', firstFail (y.cpShapes w) = some (x, at') → Completes i s (refuses n e (BitVec.ofNat 8 x) at' s)) ∧
      (firstFail (y.cpShapes w) = none →
        (∀ x at', (s.cpJudge s.cur w).1 = .error (x, at') → Completes i s (refuses n e (BitVec.ofNat 8 x) at' s)) ∧
        ∀ d d2, (s.cpJudge s.cur w).1 = .ok (d, d2) → Completes i s fun t =>
          let z := t.bay s.cur
          let job : CpJob :=
            { ent := e, instr := i, upc := 0, origin := origin, nlev := c.nlev, levels := c.levels, pad := c.pad, desc := d,
              desc2 := d2, index := (y.queue n).issued }
          issues n (fun y z => { y.modCp w.q (fun c => { c with orgv := 0, jobs := c.jobs ++ [job] }) with
            tiles := z.tiles }) s t ∧
            ∀ h, z.tile h =
              let u := y.tile h
              if w.into = some h then { u with state := 1, td := w.t, origin := origin, keyv := 1, status := 0 }
              else if w.source = some h then { u with state := 3 } else u))

/-- R307, R310, R315 to R323, R150, R91, R102, R103, R107, R188: what the first executing copy of a queue leaves when it
completes, where what it reaches lies inside its buffers and nothing of another word of its class is on its way. cp.fill has
written PAD, cp.in and cp.gath the elements inside their tensor, or PAD, into a tile now ready, cp.gath its rows by the index
tile; cp.t2t the source's elements, converted once where the formats differ, or PAD, with the source's GCNT and flags;
cp.out, cp.scat and cp.peer have written the tile's elements that lie inside, which their class reads back, the last one of
an index, the tile empty or ready again, and its status is in the sidecar; cp.red's elements, quantised, have been performed
at their homes, with the residual left behind; cp.peer's data stands at its home, and its signal counted one; nothing of the
word is on its way any more. COPY_SOURCE_READ does as much for the source tile of cp.out, cp.scat and cp.red, with merge and
values on their way, and a copy whose source is read completes then without moving a row again. Of memory no byte changes but
those of the elements moved, the histogram counters, the sidecar and the signal. R308, R310, R407: a copy one of whose
elements lies outside its buffer or out of reach stops at that row, the first such element named, the rows before it done. -/
def Obligations.copies_complete : Prop :=
  (∀ (b : BayNo) (q : BitVec 1) (j : CpJob) (rest : List CpJob) (w : CpWord) (s : State),
    s.populated b = true → s.ok = true → s.yard.dbg.wp = [] →
    ((s.bay b).cp q).jobs = j :: rest → cpWord? j.instr = some w → (s.bay b).saving = false → (s.bay b).wf.valid = false →
    let y := s.bay b
    let u := y.tile w.h
    let v := y.tile w.h2
    let d := j.desc
    let into := y.tile w.shape
    let row (r : Nat) (c : Nat) := addAt (s.cpCoord b j w r) 0 c
    let idx (r c : Nat) := (row r c).take (Desc.rank d)
    let moved (r c : Nat) := j.upc ≤ r ∧ r < u.rows ∧ c < u.cols ∧ coordInside d (row r c) = true
    let reached := ∀ r c, moved r c → s.elemFault y.ctx d (idx r c) = none
    let near := s.histRemote b d = false ∧ s.sideRemote b d = false
    let alone := s.onWay (fun x => x.bay == b && x.q == q && x.cls == w.cls && x.seqNo != j.ent.seqNo) = false
    let fits := reached ∧ near ∧ alone ∧ Desc.fmt d = u.fmt ∧ s.bufSize y.ctx (Desc.buf d) ≤ 2 ^ 48
    let beside (a : BufId × Nat) := a.1 ≠ Desc.buf d ∧ a.2 + 272 ≤ 2 ^ 48
    let sidesApart := (Desc.hen d = true → beside (y.sideAt (Desc.hist d))) ∧ (Desc.sen d = true → beside (y.sideAt (Desc.side d)))
    let clean := ∀ k l, (s.shed (shedOf b)).cache.find? k = some l → l.dirty = 0
    let spaced := ∀ r c r' c', moved r c → moved r' c' → idx r c ≠ idx r' c' →
      fmtBits (Desc.fmt d) ≤ (descBit d (idx r c) - descBit d (idx r' c')).natAbs
    let lasts (r c : Nat) := moved r c ∧ ∀ r' c', moved r' c' → r < r' ∨ (r = r' ∧ c < c') → idx r' c' ≠ idx r c
    let cell (x : State) (r c : Nat) := x.tileElem b ((x.bay b).tile w.h) r c
    let same (t : State) := ∀ r c, r < u.rows → c < u.cols → cell t r c = cell s r c
    let drained := { u with state := if u.autoe = 1 then 0 else 2 }
    let done := Instr.copyComplete b q 0
    let frame (after : List CpJob) (t : State) : Prop :=
      let z := t.bay b
      otherBays b s t ∧ onlyTraffic s t ∧ otherSheds (shedOf b) s t ∧
        z = { y.setCp q { y.cp q with jobs := after, bytes := (z.cp q).bytes, last := (z.cp q).last } with
              store := z.store, tiles := z.tiles } ∧
        ∀ h, h ≠ w.h → (w.op = 6 → h ≠ w.h2) → z.tile h = y.tile h
    let side := y.sideAt (Desc.side d)
    let src (r pos : Nat) : Sender := { bay := b, q := q, cls := w.cls, seqNo := j.ent.seqNo, row := r, tensor := w.t, pos := pos }
    let merge : Side := { ctx := y.ctx, buf := side.1, off := side.2, status := u.status, src := src u.rows 0 }
    let merges (t : State) : Prop := t.sides = s.sides ++ if Desc.sen d = true then [merge] else []
    let arrived (t : State) : Prop := t.reds = s.reds ∧ t.hists = s.hists ∧ t.sides = s.sides
    let read (j' : CpJob) := j'.srcDone = true ∧
      j' = { j with upc := u.rows, bytes := j'.bytes, srcDone := true, srcStatus := j'.srcStatus, merged := true }
    let kept (t : State) := frame rest t ∧ homesKept s t ∧ arrived t
    let word (x : State) : W32 := BitVec.ofNat 32 (leNat (x.homeBytes y.ctx side.1 side.2 4))
    let e := j.desc2
    let count (x : State) := leNat (x.homeBytes y.ctx (Desc.buf e) (Desc.off e) 4)
    let hist := y.sideAt (Desc.hist d)
    let bit (r c : Nat) := (descBit d (idx r c)).toNat
    let away (at' : Nat → Home) (p : Nat) := (∀ base r c, s.home y.ctx (Desc.buf d) = at' base → moved r c →
        8 * (p + 1) ≤ 8 * base + bit r c ∨ 8 * base + bit r c + fmtBits (Desc.fmt d) ≤ 8 * p) ∧
      (Desc.hen d = true → ∀ base, s.home y.ctx hist.1 = at' base → p < base + hist.2 ∨ base + hist.2 + 272 ≤ p) ∧
      (Desc.sen d = true → ∀ base, s.home y.ctx side.1 = at' base → p < base + side.2 ∨ base + side.2 + 4 ≤ p) ∧
      (w.sig = true → ∀ base, s.home y.ctx (Desc.buf e) = at' base → p < base + Desc.off e ∨ base + Desc.off e + 4 ≤ p)
    let others (t : State) : Prop := clean → (∀ p, away .mem p → t.mem.find? p = s.mem.find? p) ∧
      ∀ p, away .host p → Mem.read t.host p = Mem.read s.host p
    let seen (x : State) (c : CtxNo) (f : BufId) (o : Nat) := (x.load (shedOf b) w.cls.toNat c f o 1).1
    let aside (t : State) : Prop := Desc.hen d = false → Desc.sen d = false → ∀ c f o, o < 2 ^ 48 →
      ¬ (c = y.ctx ∧ f = Desc.buf d) ∨
        (∀ r k, moved r k → 8 * (o + 1) ≤ bit r k ∨ bit r k + fmtBits (Desc.fmt d) ≤ 8 * o) →
      s.isHost y.ctx (Desc.buf d) = false ∨ (c = y.ctx ∧ f = Desc.buf d) ∨ s.isHost c f = false → seen t c f o = seen s c f o
    w.q = q →
    (w.op = 4 ∨ w.op = 6 ∨ w.op = 8 ∨ w.op = 9 ∨ w.op = 10 → j.srcDone = true → into.rows ≤ j.upc →
      s.lostFrom (j.sent b q) = none → s.sideRemote b d = false →
      (w.sig = true → s.unreachable y.ctx (Desc.buf e) = false) → Completes done s fun t =>
        let z := t.bay b
        let merged := j.merged = true ∨ w.op = 6 ∨ Desc.sen d = false
        otherBays b s t ∧ onlyTraffic s t ∧ otherSheds (shedOf b) s t ∧ arrivedAll (j.sent b q) t ∧
          z = { y.setCp q { y.cp q with jobs := rest, last := BitVec.ofNat 64 j.bytes } with tiles := z.tiles } ∧
          (∀ h, w.op ≠ 6 ∨ h ≠ w.h2 → z.tile h = y.tile h) ∧
          (w.op = 6 → z.tile w.h2 = { v with state := 2, status := t2tStatus v.status j.srcStatus }) ∧
          (w.op ≠ 10 → merged → ∃ u', u' = s.settle (j.sent b q) ∧ t = { u' with bays := t.bays }) ∧
          (s.onWay (j.sent b q) = false → clean →
            (w.sig = false → merged → homesKept s t) ∧
            (w.sig = false → ¬ merged → ∀ base, s.home y.ctx side.1 = .mem base →
              word t = mergeSidecar (word s) j.srcStatus ∧
                ∀ p, ¬ (base + side.2 ≤ p ∧ p < base + side.2 + 4) → t.mem.find? p = s.mem.find? p) ∧
            (w.sig = true → merged → ∀ base, s.home y.ctx (Desc.buf e) = .mem base →
              count t = (count s + 1) % 2 ^ 32 ∧
                ∀ p, ¬ (base + Desc.off e ≤ p ∧ p < base + Desc.off e + 4) → t.mem.find? p = s.mem.find? p))) ∧
    (s.onWay (j.sent b q) = false → (j.srcDone = false → j.merged = false) → j.upc < into.rows →
    (w.op = 5 → Completes done s fun t => kept t ∧
      (t.bay b).tile w.h = { u with state := 2 } ∧ ∀ r c, r < u.rows → c < u.cols →
        cell t r c = if j.upc ≤ r then j.pad.toNat % 2 ^ fmtBits u.fmt else cell s r c) ∧
    (w.op = 3 ∨ w.op = 7 → fits → (w.op = 7 → apart u v ∧ u.rows ≤ v.size) → Completes done s fun t => kept t ∧
      (∃ st, (t.bay b).tile w.h = { u with state := 2, status := st } ∧
        ((∃ r c, j.upc ≤ r ∧ r < u.rows ∧ c < u.cols ∧ coordInside d (row r c) = false) → st.getLsbD 7 = true) ∧
        ((∀ r c, j.upc ≤ r → r < u.rows → c < u.cols → moved r c) → st = u.status)) ∧
      ∀ r c, r < u.rows → c < u.cols → cell t r c =
        if r < j.upc then cell s r c
        else if coordInside d (row r c) = true then (s.loadElem b w.cls.toNat d (idx r c)).1
        else j.pad.toNat % 2 ^ fmtBits u.fmt) ∧
    (w.op = 6 → w.h ≠ w.h2 → apart u v → j.srcDone = false → Completes done s fun t =>
      kept t ∧ (t.bay b).tile w.h = drained ∧ same t ∧
        (∃ st, (t.bay b).tile w.h2 = { v with state := 2, status := st } ∧
          st.extractLsb' 18 14 = u.status.extractLsb' 18 14 ∧ u.status.extractLsb' 0 8 &&& st.extractLsb' 0 8 =
            u.status.extractLsb' 0 8) ∧
        ∀ r c, r < v.rows → c < v.cols → t.tileElem b v r c =
          if r < j.upc then s.tileElem b v r c
          else if u.rows ≤ r ∨ u.cols ≤ c then j.pad.toNat % 2 ^ fmtBits v.fmt
          else if u.fmt = v.fmt then cell s r c
          else (convert v.fmt w.rnd (if w.rnd = 5 then
            srkBits j.ent.seed (Desc.stream d) (descCoord d (idx r c)) j.ent.step else 0) (decodeVal u.fmt (cell s r c))).bits) ∧
    (w.op = 4 ∨ w.op = 8 → fits → spaced → sidesApart → j.srcDone = false →
      let out (t : State) : Prop := (t.bay b).tile w.h = drained ∧ same t ∧
        ∀ r c, lasts r c → (t.loadElem b w.cls.toNat d (idx r c)).1 = cell s r c
      Completes done s (fun t => frame rest t ∧ out t ∧ arrived t ∧ others t ∧ aside t ∧
        ∀ base, Desc.sen d = true → Desc.hen d = false → clean → s.home y.ctx side.1 = .mem base →
          word t = mergeSidecar (word s) u.status) ∧
        Completes (.copySourceRead b q 0) s fun t => out t ∧ merges t ∧ t.reds = s.reds ∧ others t ∧ aside t ∧ ∃ j' : CpJob,
          frame (j' :: rest) t ∧ read j' ∧ j'.srcStatus = u.status) ∧
    (w.op = 9 → reached → near → alone → (w.res = true → apart u v ∧ v.fmt = Fmt.fp32 ∧ u.rows ≤ v.rows ∧ u.cols ≤ v.cols) →
      j.srcDone = false →
        let q2 (r c : Nat) := redQuant u.fmt (Desc.fmt d) w.rnd
          (srkBits j.ent.seed (Desc.stream d) (descCoord d (idx r c)) j.ent.step) (cell s r c)
          (if w.res = true then some (s.tileElem b v r c) else none)
        let sent (r c : Nat) : Red :=
          { ctx := y.ctx, buf := Desc.buf d, bit := (descBit d (idx r c)).toNat, fmt := Desc.fmt d, op := BitVec.ofNat 2 w.rop,
            bits := (q2 r c).1.bits, src := src r (descCoord d (idx r c)),
            side := if Desc.sen d = true then some (y.sideAt (Desc.side d)) else none,
            hist := if Desc.hen d = true then
              some ((y.sideAt (Desc.hist d)).1, (y.sideAt (Desc.hist d)).2, Desc.hbase d) else none }
        let out (t : State) : Prop := (∃ st, (t.bay b).tile w.h = { drained with status := st }) ∧ same t ∧
          ∀ r c, r < u.rows → c < u.cols → w.res = true → t.tileElem b v r c =
            if j.upc ≤ r ∧ coordInside d (row r c) = true then (q2 r c).2.bits else s.tileElem b v r c
        let at' (x : State) (r c : Nat) := x.homeBits y.ctx (Desc.buf d) (descBit d (idx r c)).toNat (fmtBits (Desc.fmt d))
        Completes (.copySourceRead b q 0) s (fun t => out t ∧ homesKept s t ∧ t.hists = s.hists ∧ t.sides = s.sides ++
            (if Desc.sen d = true then [{ merge with status := ((t.bay b).tile w.h).status }] else []) ∧
          (∃ j' : CpJob, frame (j' :: rest) t ∧ read j') ∧
          ∃ new, t.reds = s.reds ++ new ∧ (∀ x ∈ new, ∃ r c, moved r c ∧ x = sent r c) ∧
            ∀ r c, moved r c → sent r c ∈ new) ∧
        Completes done s fun t => frame rest t ∧ out t ∧ arrived t ∧ others t ∧
          ∀ base, clean → spaced → Desc.hen d = false → Desc.sen d = false → s.home y.ctx (Desc.buf d) = .mem base →
            s.bufSize y.ctx (Desc.buf d) ≤ 2 ^ 48 → fmtOk (Desc.fmt d) = true →
            (∀ r c r' c', moved r c → moved r' c' → idx r c = idx r' c' → r = r' ∧ c = c') →
            ∀ r c, moved r c → at' t r c = (reduce (Desc.fmt d) (w.rop % 4) (at' s r c) (q2 r c).1.bits).bits % 2 ^ fmtBits (Desc.fmt d)) ∧
    (w.op = 10 → fits → spaced → j.srcDone = false → Desc.hen d = false → Desc.sen d = false →
      clean → ∀ base, s.home y.ctx (Desc.buf d) = .mem base →
      (w.sig = true → s.unreachable y.ctx (Desc.buf e) = false ∧ Desc.off e + 4 ≤ 2 ^ 48 ∧
        ∃ sbase, s.home y.ctx (Desc.buf e) = .mem sbase ∧ sbase ≠ base) →
      Completes done s fun t => frame rest t ∧ arrived t ∧ others t ∧ (t.bay b).tile w.h = drained ∧ same t ∧
        (∀ r c, lasts r c → t.homeBits y.ctx (Desc.buf d) (descBit d (idx r c)).toNat (fmtBits u.fmt) = cell s r c) ∧
        (w.sig = true → count t = (count s + 1) % 2 ^ 32)) ∧
    ∀ r c x, w.accesses = true → near → alone → (w.op = 7 → apart u v) → j.upc ≤ r → r < u.rows → c < u.cols →
      coordInside d (row r c) = true → s.elemFault y.ctx d (idx r c) = some x →
      (∀ r' c', moved r' c' → r' < r ∨ (r' = r ∧ c' < c) → s.elemFault y.ctx d (idx r' c') = none) →
      Completes done s fun t =>
        let z := t.bay b
        otherBays b s t ∧ onlyTraffic s t ∧ arrived t ∧ (s.bufSize y.ctx (Desc.buf d) ≤ 2 ^ 48 → others t) ∧
          z.wf = faultRecord (2 + q.toNat) j.ent j.index (BitVec.ofNat 8 x) (BitVec.ofNat 32 r)
            (.tensor w.t (descCoord d (idx r c))) ∧
          ∃ j' : CpJob, (z.cp q).jobs = j' :: rest ∧ j' = { j with upc := r, bytes := j'.bytes })) ∧
  ∀ (fs f : Fmt) (rnd keyed x y : Nat), fmtIsFloat fs = true → fmtIsFloat f = true →
    let a := decodeVal fs x
    let r := decodeVal Fmt.fp32 y
    let q := redQuant fs f rnd keyed x (some y)
    let rounds (g : Fmt) (mode keyed : Nat) (v : ℚ) (o : Res) : Prop := v ≠ 0 → ∃ (m : Nat) (e : Int),
      (if v < 0 then -1 else 1) * (m : ℚ) * 2 ^ e = v ∧ o.bits = (roundTo g mode keyed (decide (v < 0)) m e).bits
    (redQuant fs f rnd keyed x none).1 = convert f rnd keyed a ∧
      (a.finite = true → r.finite = true → rounds f rnd keyed (a.rat + r.rat) q.1 ∧
        ((decodeVal f q.1.bits).finite = true →
          rounds Fmt.fp32 0 0 (a.rat + r.rat - (decodeVal f q.1.bits).rat) q.2))

/-- R321, R322, R304, R103, R107, R101: what arrives at a home, in the order of its class and queue for cp.red: the element's
lines have left the shed's cache, written back, and a value on an integer element adds with saturation or takes the lesser or
greater; a histogram increment adds one to a counter that saturates; a sidecar merge raises flags, adds SATC and takes
the greater GCNT; no other byte of memory changes. R407, R310: what arrives nowhere for want of a path makes its executing
copy stop with "remote" at the element concerned, at the row that sent it unless the source is read (log 24), and nothing
of the copy is left on its way. -/
def Obligations.arrivals_at_home : Prop :=
  (∀ (k : Nat) (r : Red) (base : Nat) (s : State), s.reds[k]? = some r → s.home r.ctx r.buf = .mem base →
    let sh := shedOf r.src.bay
    let ahead := ∃ x ∈ s.reds.take k, x.src.bay = r.src.bay ∧ x.src.q = r.src.q ∧ x.src.cls = r.src.cls
    let clean := ∀ n l, (s.shed sh).cache.find? n = some l → l.dirty = 0
    let w := fmtBits r.fmt
    let u := s.redLines r
    let old := intOf r.fmt (u.homeBits r.ctx r.buf r.bit w)
    let arrived := intOf r.fmt r.bits
    let lo : Int := if fmtIsSigned r.fmt then -(2 ^ (w - 1)) else 0
    let hi : Int := if fmtIsSigned r.fmt then 2 ^ (w - 1) - 1 else 2 ^ w - 1
    (ahead → Completes (.reductionAtHome k) s fun t => t = s) ∧
    (u = { s with sheds := u.sheds, mem := u.mem, host := u.host, lofts := u.lofts }) ∧ (clean → u.mem = s.mem ∧ u.host = s.host) ∧
    (fmtIsInt r.fmt = true → r.fmt ≠ 7 → r.side = none → s.yard.dbg.wp = [] → r.bits < 2 ^ w → r.bit % w = 0 → ¬ ahead →
      s.redLost r = false →
      Completes (.reductionAtHome k) s fun t =>
        let new := t.homeBits r.ctx r.buf r.bit w
        t = { u with mem := t.mem, lofts := t.lofts, reds := s.reds.eraseIdx k, hists := t.hists } ∧
          intOf r.fmt new = (if r.op = 0 then max lo (min hi (old + arrived)) else if r.op = 1 then min old arrived
            else max old arrived) ∧
          t.hists = s.hists ++ (match r.hist with
            | some (hb, ho, hbase) => [{ ctx := r.ctx, buf := hb, off := ho + 4 * histBin r.fmt hbase.toInt new, src := r.src }]
            | none => []) ∧
          ∀ p, 8 * (p + 1) ≤ 8 * base + r.bit ∨ 8 * base + r.bit + w ≤ 8 * p → t.mem.find? p = u.mem.find? p)) ∧
  (∀ (k : Nat) (r : Hist) (base : Nat) (s : State), s.hists[k]? = some r → s.home r.ctx r.buf = .mem base →
    s.histLost r = false →
    let u := s.dropLine (shedOf r.src.bay) (lineKey r.ctx r.buf r.off)
    (u = { s with sheds := u.sheds, mem := u.mem, host := u.host, lofts := u.lofts }) ∧
    ((∀ n l, (s.shed (shedOf r.src.bay)).cache.find? n = some l → l.dirty = 0) → u.mem = s.mem ∧ u.host = s.host) ∧
    Completes (.histogramIncrement k) s fun t =>
      let count (x : State) := leNat (x.homeBytes r.ctx r.buf r.off 4)
      t = { u with mem := t.mem, lofts := t.lofts, hists := s.hists.eraseIdx k } ∧
        count t = (if count u = 2 ^ 32 - 1 then count u else count u + 1) ∧
        ∀ p, ¬ (base + r.off ≤ p ∧ p < base + r.off + 4) → t.mem.find? p = u.mem.find? p) ∧
  (∀ (k : Nat) (r : Side) (base : Nat) (s : State), s.sides[k]? = some r → s.home r.ctx r.buf = .mem base →
    s.sideLost r = false → Completes (.sidecarMerge k) s fun t =>
      let u := s.dropLine (shedOf r.src.bay) (lineKey r.ctx r.buf r.off)
      let word (x : State) : W32 := BitVec.ofNat 32 (leNat (x.homeBytes r.ctx r.buf r.off 4))
      let old := word u
      let new := word t
      t = { u with mem := t.mem, lofts := t.lofts, sides := s.sides.eraseIdx k } ∧
        new.extractLsb' 0 8 = old.extractLsb' 0 8 ||| r.status.extractLsb' 0 8 ∧
        (new.extractLsb' 8 10).toNat = min 1023 ((old.extractLsb' 8 10).toNat + (r.status.extractLsb' 8 10).toNat) ∧
        (new.extractLsb' 18 14).toNat = max (old.extractLsb' 18 14).toNat (r.status.extractLsb' 18 14).toNat ∧
        ∀ p, ¬ (base + r.off ≤ p ∧ p < base + r.off + 4) → t.mem.find? p = u.mem.find? p) ∧
  ∀ (i : Instr) (x : Sender) (j : CpJob) (s : State),
    let jobs (y : State) := ((y.bay x.bay).cp x.q).jobs.find? fun j => j.ent.seqNo == x.seqNo
    let value := ∃ k r, i = .reductionAtHome k ∧ s.reds[k]? = some r ∧ r.src = x ∧ s.redLost r = true ∧
      ∀ z ∈ s.reds.take k, ¬ (z.src.bay = x.bay ∧ z.src.q = x.q ∧ z.src.cls = x.cls)
    let count := ∃ k r, i = .histogramIncrement k ∧ s.hists[k]? = some r ∧ r.src = x ∧ s.histLost r = true
    let merge := ∃ k r, i = .sidecarMerge k ∧ s.sides[k]? = some r ∧ r.src = x ∧ s.sideLost r = true
    value ∨ count ∨ merge → jobs s = some j → (s.bay x.bay).wf.valid = false → Completes i s fun t =>
      otherBays x.bay s t ∧ arrivedAll (fun z => z.bay == x.bay && z.q == x.q && z.seqNo == x.seqNo) t ∧
        ∃ j', jobs t = some j' ∧ j'.upc ≤ j.upc ∧ (j.srcDone = true → j'.upc = j.upc) ∧
          (value ∨ count → j.srcDone = false → j'.upc ≤ x.row) ∧ (merge → j'.merged = false) ∧
          (t.bay x.bay).wf = faultRecord (2 + x.q.toNat) j.ent j.index 8 (BitVec.ofNat 32 j'.upc) (.tensor x.tensor x.pos)

/-! ### Class-engine words (R329 to R346) -/

/-- R329 to R332, R336, R151: a word that the bay's class engine lacks is an illegal word; one whose tiles are not ready, or
behind an executing word, stays; one that a check refuses stops the queue; any other issues, kx.ild filling its tile, a
sparse word with its header latched. That a kx.ild whose TS and TI are one tile, of which R151 and R421 ask two states and
which R336 makes illegal, is judged once the tile is ready or empty is the model's choice (log 64). -/
def Obligations.class_words_issue : Prop :=
  ∀ (i : Instr) (e : Entry) (s : State), ((kxIndex i).isSome = true ∨ (kxSortWord? i).isSome = true) → atHead 4 e s →
    let y := s.bay s.cur
    let here := bayKind s.cur = if (kxIndex i).isSome then 4 else 6
    let ready := y.kx.job = none ∧ (match i with
      | .kxIld ts ti => (y.tile ti).state = 0 ∧ (y.tile ts).state = 2 ∨ ts = ti ∧ (y.tile ts).state = 2 ∨ ts = ti ∧ (y.tile ti).state = 0
      | _ => ∀ h ∈ kxTiles i, (y.tile h).state = 2)
    let n := ((kxSortWord? i).map fun w => s.sortCount s.cur w).getD 0
    (¬ here → Completes i s (refuses 4 e 1 .nothing s)) ∧
    (here → (∀ h, y.missing 4 (kxTiles i) = some h → Completes i s (refuses 4 e 2 (.tile h 0) s)) ∧
      (y.missing 4 (kxTiles i) = none → ¬ ready → Completes i s fun t => t = s) ∧
      (y.missing 4 (kxTiles i) = none → ready →
        (∀ c at', firstFail (s.kxChecks s.cur i) = some (c, at') → Completes i s (refuses 4 e (BitVec.ofNat 8 c) at' s)) ∧
        (firstFail (s.kxChecks s.cur i) = none → Completes i s fun t =>
          let z := t.bay s.cur
          issues 4 (fun y z => { y with kx := z.kx, tiles := z.tiles }) s t ∧ z.kx.cnt = y.kx.cnt ∧
            (∃ j, z.kx.job = some j ∧ j.ent = e ∧ j.instr = i ∧ j.upc = 0 ∧ j.n = n ∧ j.index = y.cls.issued ∧
              ∀ h blk zero, kxIndex i = some (h, blk, zero) →
                let at' (k : Nat) : Int := intOf 4 (s.tileLin s.cur (y.tile h) k)
                (j.head.m : Int) = at' 0 ∧ (j.head.nc : Int) = at' 1 ∧ j.head.first = at' 2 ∧
                  (j.head.nnz : Int) = at' (j.head.m + 2) - at' 2) ∧
            ∀ h, z.tile h = match i with
              | .kxIld ts ti =>
                if h = ti then { y.tile ti with state := 1, td := (y.tile ts).td, origin := (y.tile ts).origin, keyv := 1,
                                                status := 0 } else y.tile h
              | _ => y.tile h)))

/-- R341 to R344: what a sort word leaves when it completes, its operands as they then stand (log 39): kx.sort orders its
pairs by the order of the key type, stably; kx.ssort each segment; kx.merge merges each even segment with the next; kx.cmpct
keeps the pairs whose key is not all ones and kx.uniq the first of each run of equal keys; kx.topk puts the first pairs of
the order before the rest. The words' pairs stand from position 0 on, CNT and the count tile hold their number, and nothing
else of the bay changes. -/
def Obligations.sort_words_complete : Prop :=
  (∀ (w : KxSortWord) (a b : KxPair), w.kt < 4 →
    let top := if w.kt = 3 then 2 ^ 64 else 2 ^ 32
    let below (x y : Nat) : Prop :=
      match w.kt with
      | 0 => (BitVec.ofNat 32 x).toInt < (BitVec.ofNat 32 y).toInt
      | 1 => x < y
      | 2 => totalBelow x y
      | _ => packedBelow x y
    a.key < top → b.key < top →
      (kxBefore w a b = true ↔ if w.desc = true then below b.key a.key else below a.key b.key) ∧
        (kxRank w.kt a.key = kxRank w.kt b.key ↔ a.key = b.key)) ∧
  (∀ (w : KxSortWord) (l : List KxPair), l.length ≤ 65536 →
    (kxSorted w l).Perm l ∧ (kxSorted w l).Pairwise (fun a b => kxBefore w b a = false) ∧
      ∀ k, (kxSorted w l).filter (fun p => kxRank w.kt p.key == k) = l.filter fun p => kxRank w.kt p.key == k) ∧
  (∀ (i : Instr) (w : KxSortWord) (lens : List Nat) (l : List KxPair), kxSortWord? i = some w → l.length ≤ 65536 →
    let r := kxResult i w lens l
    let part (x : List KxPair) (k : Nat) := (x.drop (lens.take k).sum).take (lens.getD k 0)
    let pair (k : Nat) := l.getD k ⟨0, 0, 0⟩
    let ones : Nat := if w.kt = 3 then 2 ^ 64 - 1 else 2 ^ 32 - 1
    match i with
    | .kxSort _ _ _ _ => r = (kxSorted w l, l.length)
    | .kxSsort _ _ _ => lens.sum = l.length → r.1.length = l.length ∧ r.2 = l.length ∧
        ∀ k, k < lens.length → part r.1 k = kxSorted w (part l k)
    | .kxMerge _ _ _ => lens.sum = l.length → r.1.length = l.length ∧ r.2 = l.length ∧
        ∀ k, 2 * k < lens.length → if 2 * k + 1 < lens.length
          then mergeOf (kxBefore w) (part l (2 * k)) (part l (2 * k + 1)) (part r.1 (2 * k) ++ part r.1 (2 * k + 1))
          else part r.1 (2 * k) = part l (2 * k)
    | .kxCmpct _ _ _ _ _ _ _ => r.1 = l.filter (fun p => p.key != ones) ∧ r.2 = r.1.length
    | .kxUniq _ _ _ _ => r.2 = r.1.length ∧ r.1 = ((List.range l.length).filter fun k =>
        k == 0 || (pair (k - 1)).key != (pair k).key).map pair
    | .kxTopk _ _ k1 => (l.map (·.pos)).Nodup → r.2 = min (k1.toNat + 1) l.length ∧
        r.1.take r.2 = (kxSorted w l).take r.2 ∧ (r.1.drop r.2).Sublist l ∧ r.1.Perm l
    | _ => True) ∧
  ∀ (b : BayNo) (j : KxJob) (w : KxSortWord) (s : State), s.populated b = true → (s.bay b).kx.job = some j →
    kxSortWord? j.instr = some w → (s.bay b).kxHeld j = false →
    let y := s.bay b
    let tk := y.tile w.tk
    let tv := y.tile w.tv
    let key (e : Nat) : Nat :=
      if w.kt = 3 then s.tileLin b tk (2 * e) + 2 ^ 32 * s.tileLin b tk (2 * e + 1) else s.tileLin b tk e
    let pairs : List KxPair :=
      (List.range j.n).map fun e => { pos := e, key := key e, val := if w.ven = true then s.tileLin b tv e else 0 }
    let lens : List Nat := match w.seg with
      | some (tl, n) => (List.range n).map fun k => s.tileLin b (y.tile tl) k
      | none => []
    let r := kxResult j.instr w lens pairs
    let counts (h : Byte) := apart (y.tile h) tk ∧ (w.ven = true → apart (y.tile h) tv) ∧ fmtBits (y.tile h).fmt = 32
    w.kt < 4 → fmtBits tk.fmt = 32 → (if w.kt = 3 then 2 * j.n else j.n) ≤ tk.size →
    (w.ven = true → fmtBits tv.fmt = 32 ∧ j.n ≤ tv.size ∧ apart tk tv) → (∀ h, w.tcn = some h → counts h) → (w.seg ≠ none → lens.sum = j.n) →
    j.n ≤ 65536 → Completes (.classWordComplete b) s fun t =>
      let z := t.bay b
      otherBays b s t ∧ t = { s with bays := t.bays, sheds := t.sheds } ∧ otherSheds (shedOf b) s t ∧
        t.shed (shedOf b) = { s.shed (shedOf b) with pool := (t.shed (shedOf b)).pool } ∧
        z = { y with store := z.store, kx := { cnt := BitVec.ofNat 32 r.2, job := none } } ∧
        (∀ k p, r.1[k]? = some p →
          (w.kt = 3 → t.tileLin b tk (2 * k) = p.key % 2 ^ 32 ∧ t.tileLin b tk (2 * k + 1) = p.key / 2 ^ 32) ∧
          (w.kt ≠ 3 → t.tileLin b tk k = p.key) ∧ (w.ven = true → t.tileLin b tv k = p.val)) ∧
        (∀ k, (if w.kt = 3 then 2 * r.1.length else r.1.length) ≤ k → k < tk.size → t.tileLin b tk k = s.tileLin b tk k) ∧
        (∀ k, w.ven = true → r.1.length ≤ k → k < tv.size → t.tileLin b tv k = s.tileLin b tv k) ∧
        (∀ h, w.tcn = some h → j.n ≠ 0 → t.tileLin b (y.tile h) 0 = r.2) ∧
        ∀ h, (y.tile h).alloc ≠ 0 → apart (y.tile h) tk → (w.ven = true → apart (y.tile h) tv) →
          ∀ k, k < (y.tile h).size → (∀ g, w.tcn = some g → j.n ≠ 0 → apart (y.tile h) (y.tile g) ∨ (h = g ∧ k ≠ 0)) →
            t.tileLin b (y.tile h) k = s.tileLin b (y.tile h) k

/-- R334 to R339: what the rows left of kx.ild, kx.spmm, kx.bspmm, kx.sddmm and kx.spadd write at their completion, the
operands read as they then stand (log 39) and the header as latched: each element of their rows is the exact sum of value
times operand over the entries of its row, with its old value under ACC, times the old value under MUL, or the old value and
the entry, rounded, wrapped or clamped once; a row without entries leaves its elements under ACC; kx.ild's index tile, ready
then, takes the header, the row pointers less the first and the columns of its rows (R336); other elements and tiles are as
before. R335, R332: a row whose pointers or columns break the index tile's rules stops the word there with "index", the
element named and the rows before it done: pointers ascending and at most NNZ, columns ascending and below NC. -/
def Obligations.sparse_product : Prop :=
  ∀ (b : BayNo) (j : KxJob) (s : State), s.populated b = true → (s.bay b).kx.job = some j → (s.bay b).kxHeld j = false →
    let y := s.bay b
    let hd := j.head
    let num (f : Fmt) (x : Nat) : ℚ := (decodeVal f x).rat
    let finite (f : Fmt) (x : Nat) : Prop := (decodeVal f x).finite = true
    let checked (ti : Byte) := j.upc < hd.m ∧ hd.m + 3 + hd.nnz ≤ (y.tile ti).size ∧ ∀ r, j.upc ≤ r → r < hd.m → s.rowBreak b (y.tile ti) hd r = none
    let now (i : Nat) := j.upc ≤ i ∧ i < hd.m
    let ends (out : Byte) (t : State) : Prop :=
      let z := t.bay b
      otherBays b s t ∧ t = { s with bays := t.bays, sheds := t.sheds } ∧ otherSheds (shedOf b) s t ∧
        z = { y with store := z.store, tiles := z.tiles, kx := { y.kx with job := none } } ∧
        (∀ h, h ≠ out → z.tile h = y.tile h) ∧ z.tile out = { y.tile out with status := (z.tile out).status }
    (∀ (f : KxMul) (u : Nat), (j.instr = .kxSpmm f ∧ u = 1) ∨ (j.instr = .kxBspmm f ∧ u = 16) →
      let tc := y.tile f.out
      let ti := y.tile f.ti
      let tv := y.tile f.tx
      let tb := y.tile f.tb
      let ints := fmtIsInt tv.fmt && fmtIsInt tb.fmt
      (if ints = true then tc.fmt = 4 else fmtFA tc.fmt = true) → checked f.ti → u * hd.m ≤ tc.rows → tc.cols ≤ tb.cols →
      u * hd.nc ≤ tb.rows → u * u * hd.nnz ≤ tv.size → apart tc ti → apart tc tv → apart tc tb →
      Completes (.classWordComplete b) s fun t => ends f.out t ∧ ∀ r c, r < tc.rows → c < tc.cols →
        let ks := s.rowEntries b ti hd (r / u)
        let old := s.tileElem b tc r c
        let new := t.tileElem b tc r c
        let terms : List (Nat × Nat) := ks.flatMap fun k => (List.range u).map fun q =>
          (s.tileLin b tv (u * u * k + u * (r % u) + q), s.tileElem b tb (u * (s.colAt b ti hd.m k).toNat + q) c)
        (¬ now (r / u) ∨ (f.flag = 1 ∧ ks = []) → new = old) ∧
        (now (r / u) → ¬ (f.flag = 1 ∧ ks = []) → (∀ p ∈ terms, finite tv.fmt p.1 ∧ finite tb.fmt p.2) →
          (f.flag = 1 → finite tc.fmt old) → rounded ints tc.fmt f.rnd.toNat f.sat.toNat (j.keyed tc r c)
            ((if f.flag = 1 then num tc.fmt old else 0) + (terms.map fun p => num tv.fmt p.1 * num tb.fmt p.2).sum) new)) ∧
    (∀ f : KxMul, j.instr = .kxSddmm f →
      let tc := y.tile f.out
      let ti := y.tile f.ti
      let ta := y.tile f.tx
      let tb := y.tile f.tb
      let ints := fmtIsInt ta.fmt && fmtIsInt tb.fmt
      (if ints = true then tc.fmt = 4 else fmtFA tc.fmt = true) → checked f.ti → hd.m ≤ ta.rows → ta.cols ≤ tb.rows →
      hd.nc ≤ tb.cols → hd.nnz ≤ tc.size → apart tc ti → apart tc ta → apart tc tb →
      Completes (.classWordComplete b) s fun t => ends f.out t ∧
        (∀ k, k < tc.size → (∀ i, now i → k ∉ s.rowEntries b ti hd i) → t.tileLin b tc k = s.tileLin b tc k) ∧
        ∀ i k, now i → k ∈ s.rowEntries b ti hd i →
          let old := s.tileLin b tc k
          let terms : List (Nat × Nat) := (List.range ta.cols).map fun d =>
            (s.tileElem b ta i d, s.tileElem b tb d (s.colAt b ti hd.m k).toNat)
          (∀ p ∈ terms, finite ta.fmt p.1 ∧ finite tb.fmt p.2) → (f.flag = 1 → finite tc.fmt old) →
            rounded ints tc.fmt f.rnd.toNat f.sat.toNat (j.keyed tc (k / tc.cols) (k % tc.cols))
              ((terms.map fun p => num ta.fmt p.1 * num tb.fmt p.2).sum * if f.flag = 1 then num tc.fmt old else 1)
              (t.tileLin b tc k)) ∧
    (∀ (neg blk : BitVec 1) (hv hi hc : Byte) (rnd : BitVec 3) (sat : BitVec 1), j.instr = .kxSpadd neg blk hv hi hc rnd sat →
      let u := if blk = 1 then 16 else 1
      let tc := y.tile hc
      let ti := y.tile hi
      let tv := y.tile hv
      let ints := fmtIsInt tv.fmt
      (if ints = true then fmtIA tc.fmt = true else fmtFA tc.fmt = true) → checked hi → u * hd.m ≤ tc.rows →
      u * hd.nc ≤ tc.cols → u * u * hd.nnz ≤ tv.size → apart tc ti → apart tc tv →
      Completes (.classWordComplete b) s fun t => ends hc t ∧ ∀ r c, r < tc.rows → c < tc.cols →
        let old := s.tileElem b tc r c
        let new := t.tileElem b tc r c
        let names (k : Nat) := k ∈ s.rowEntries b ti hd (r / u) ∧ s.colAt b ti hd.m k = (c / u : Nat)
        (¬ now (r / u) ∨ (∀ k, ¬ names k) → new = old) ∧
        ∀ k, now (r / u) → names k →
          let v := s.tileLin b tv (u * u * k + u * (r % u) + c % u)
          finite tv.fmt v → finite tc.fmt old → rounded ints tc.fmt rnd.toNat sat.toNat (j.keyed tc r c)
            (num tc.fmt old + (if neg = 1 then -1 else 1) * num tv.fmt v) new) ∧
    (∀ ts ti : Byte, j.instr = .kxIld ts ti →
      let src := y.tile ts
      let dst := y.tile ti
      let ptr (k : Nat) := 3 + j.upc ≤ k ∧ k < 3 + hd.m
      let entry (k : Nat) := ∃ i e, now i ∧ e ∈ s.rowEntries b src hd i ∧ k = hd.m + 3 + e
      checked ts → src.fmt = 4 → dst.fmt = 4 → hd.m + 3 + hd.nnz ≤ dst.size → hd.m < 2 ^ 32 → hd.nc < 2 ^ 32 → apart dst src →
      Completes (.classWordComplete b) s fun t =>
        let z := t.bay b
        otherBays b s t ∧ t = { s with bays := t.bays, sheds := t.sheds } ∧ otherSheds (shedOf b) s t ∧
          z = { y with store := z.store, tiles := z.tiles, kx := { y.kx with job := none } } ∧
          (∀ h, z.tile h = if h = ti then { dst with state := 2 } else y.tile h) ∧
          (j.upc = 0 → t.tileLin b dst 0 = hd.m ∧ t.tileLin b dst 1 = hd.nc ∧ t.tileLin b dst 2 = 0) ∧
          (∀ k, ptr k → (t.tileLin b dst k : Int) = (intOf 4 (s.tileLin b src k) - hd.first) % 2 ^ 32) ∧
          (∀ k, entry k → t.tileLin b dst k = s.tileLin b src k) ∧
          ∀ k, k < dst.size → (j.upc = 0 → 3 ≤ k) → ¬ ptr k → ¬ entry k → t.tileLin b dst k = s.tileLin b dst k) ∧
    (∀ (out ti : Byte) (u r p : Nat),
      let dst := y.tile out
      (j.instr = .kxIld ti out ∧ hd.m + 3 + hd.nnz ≤ dst.size ∨ (∃ f : KxMul, (j.instr = .kxSpmm f ∧ u = 1 ∨ j.instr = .kxBspmm f ∧ u = 16) ∧ out = f.out ∧ ti = f.ti ∧
          u * hd.m ≤ dst.rows) ∨
        (∃ f : KxMul, j.instr = .kxSddmm f ∧ out = f.out ∧ ti = f.ti ∧ hd.nnz ≤ dst.size) ∨
        ∃ neg blk hv rnd sat, j.instr = .kxSpadd neg blk hv ti out rnd sat ∧ u = (if blk = 1 then 16 else 1) ∧
          u * hd.m ≤ dst.rows ∧ u * hd.nc ≤ dst.cols) →
      hd.m + 3 + hd.nnz ≤ (y.tile ti).size → apart dst (y.tile ti) → y.wf.valid = false → j.upc ≤ r → r < hd.m → r ≤ 4096 →
      (∀ i, j.upc ≤ i → i < r → s.rowBreak b (y.tile ti) hd i = none) → s.rowBreak b (y.tile ti) hd r = some p →
      Completes (.classWordComplete b) s fun t =>
        let z := t.bay b
        otherBays b s t ∧ t = { s with bays := t.bays, sheds := t.sheds } ∧ otherSheds (shedOf b) s t ∧
          (∀ h, h ≠ out → z.tile h = y.tile h) ∧ z.kx = { y.kx with job := some { j with upc := r } } ∧
          z.wf = faultRecord 4 j.ent j.index 7 (BitVec.ofNat 32 r) (.tile ti p)) ∧
    ∀ (t : Tile) (r : Nat),
      let word (k : Nat) : Int := intOf 4 (s.tileLin b t k)
      let lo := word (r + 2) - hd.first
      let hi := word (r + 3) - hd.first
      let col (k : Nat) := word (hd.m + 3 + k)
      let good (k : Nat) := 0 ≤ col k ∧ col k < hd.nc ∧ (lo.toNat < k → col (k - 1) < col k)
      (hi < lo ∨ hd.nnz < hi → s.rowBreak b t hd r = some (r + 3)) ∧
        (lo ≤ hi → hi ≤ hd.nnz →
          ((∀ k, lo.toNat ≤ k → k < hi.toNat → good k) → s.rowBreak b t hd r = none) ∧
          ∀ k, lo.toNat ≤ k → k < hi.toNat → ¬ good k → (∀ i, lo.toNat ≤ i → i < k → good i) →
            s.rowBreak b t hd r = some (hd.m + 3 + k))

/-! ### Task instructions (R363 to R367) -/

/-- R363 to R367, R415, R407: TASK.SPAWN reads a record, releases and places it in the lowest FREE slot, or answers −1, −2 or
−3, also for a code object out of reach, which is the model's choice (log 72); an access to the record that the checks of R44
or a watchpoint (R401) refuse takes their exception; TASK.DEC sends a decrement; TASK.END appends a notify to every queue and
parks; TASK.ABORT frees bay and slot and writes a record, whose DEC and SRC are free values (log 3); TASK.ARG and TASK.ID
read what the task was given. -/
def Obligations.tasks_complete : Prop :=
  ∀ (rd rs1 : Reg) (s : State), s.ok = true →
    let y := s.bay s.cur
    let v := y.gen.rd rs1
    let k := y.task.getD 0
    let x := s.slot k
    let npc := y.gen.pc + 4
    let sh := shedOf s.cur
    let word (i : Instr) : Word := ((encodeGen i).getD 0).setWidth 64
    (5 < v.toNat → Completes (.taskArg rd rs1) s (traps 26 v s)) ∧
    (v.toNat ≤ 5 → Completes (.taskArg rd rs1) s fun t => retires [rd] npc s t ∧ (t.bay s.cur).gen.rd rd =
      result rd (if y.capm.getLsbD v.toNat then BitVec.ofNat 64 (v.toNat * 2 ^ 58) else y.args.getD v.toNat 0)) ∧
    (Completes (.taskId rd) s fun t => retires [rd] npc s t ∧
      (t.bay s.cur).gen.rd rd = result rd (BitVec.ofNat 64 (x.gbase.toNat * 65536 + k.toNat))) ∧
    (2 ^ 16 ≤ v.toNat → Completes (.taskDec rs1) s (traps 26 v s)) ∧
    (v.toNat < 2 ^ 16 → Completes (.taskDec rs1) s fun t =>
      let u := s.release sh 0x7FFF 2
      asks (.taskDec rs1) { ready := false } s t ∧ t = { u with bays := t.bays, yard := t.yard } ∧
        (t.bay s.cur).caps = y.caps ∧ t.yard = { s.yard with decs := s.yard.decs ++
          [{ src := k, bay := s.cur, ctx := y.ctx, dec := 2, target := v.extractLsb' 0 16, first := true,
             time := if s.cur.toNat < s.yard.unit.floor then s.now + 1 else s.now }] }) ∧
    (ended s → Completes (.taskSpawn rd rs1) s (traps 2 (word (.taskSpawn rd rs1)) s)) ∧
    (¬ ended s → v.toNat % 64 ≠ 0 → Completes (.taskSpawn rd rs1) s (traps 26 v s)) ∧
    (¬ ended s → v.toNat % 64 = 0 → ∀ n, s.checkAddr s.cur .load v 64 = .error n →
      Completes (.taskSpawn rd rs1) s (traps n v s)) ∧
    (¬ ended s → v.toNat % 64 = 0 → ∀ bf off, s.checkAddr s.cur .load v 64 = .ok (.buf bf off) →
      s.watchGen y.ctx bf off 64 y.gen.zclass.toNat .load = some false → Completes (.taskSpawn rd rs1) s (traps 3 v s)) ∧
    (¬ ended s → v.toNat % 64 = 0 → ∀ bs r, genRead s v 64 y.gen.zclass.toNat = .ok (bs, r) →
      let w : TaskRecord := BitVec.ofNat 512 (leNat bs)
      let n := s.graphTasks x.graph
      let u := r.release sh 0x7FFF 2
      let free (j : Nat) := ∀ e ∈ s.yard.slots, e.1 = j → e.2.state = .free
      let full := (∀ j, j < 65536 → ¬ free j) ∨ (s.ctx y.ctx).qslot.toNat ≤ s.resident y.ctx
      let answers (val : Word) (t : State) : Prop := asks (.taskSpawn rd rs1) { rd := rd, val := val } s t ∧
        (t.bay s.cur).caps = y.caps ∧ t = { u with bays := t.bays, yard := t.yard }
      (recMalformed n w = true ∨ recCapm w ≠ 0 → Completes (.taskSpawn rd rs1) s (trapsBeside 26 v s)) ∧
      (recMalformed n w = false → recCapm w = 0 →
        (full → Completes (.taskSpawn rd rs1) s fun t => answers (-1) t ∧ t.yard = s.yard) ∧
        (¬ full → u.judgeRecord y.ctx n w = .error .absent →
          Completes (.taskSpawn rd rs1) s fun t => answers (-2) t ∧ t.yard = s.yard) ∧
        (¬ full → u.judgeRecord y.ctx n w = .error .code ∨ u.judgeRecord y.ctx n w = .error .remote →
          Completes (.taskSpawn rd rs1) s fun t => answers (-3) t ∧ t.yard = s.yard) ∧
        ∀ j m, ¬ full → free j → (∀ i, i < j → ¬ free i) → u.judgeRecord y.ctx n w = .ok m →
          Completes (.taskSpawn rd rs1) s fun t =>
            answers (BitVec.ofNat 64 j) t ∧ t.yard = { s.yard with slots := t.yard.slots } ∧
              onlySlot (BitVec.ofNat 16 j)
                { state := if recCnt w = 0 then .ready else .waiting, ctx := y.ctx, cntr := recCnt w, graph := x.graph,
                  gbase := x.gbase, age := if recCnt w = 0 then s.now else 0, record := w, code := m.1,
                  args := (List.range 6).map (recArg w), capm := 0, cls := m.2.1, fallback := m.2.2 } s t)) ∧
    (y.pend ≠ [] → Completes .taskEnd s (traps 53 0 s)) ∧
    (y.pend = [] → ended s → Completes .taskEnd s fun t => onlyBay s.cur s t ∧ parks y.gen (t.bay s.cur).gen ∧
      t.bay s.cur = { y with gen := (t.bay s.cur).gen, hangCount := 0, hangOnce := false }) ∧
    (y.pend = [] → ¬ ended s →
      let qs := queueIds (bayKind s.cur)
      ((∃ q ∈ qs, 12 ≤ (y.queue q).wait.length) → Completes .taskEnd s (waits .taskEnd s)) ∧
      ((∀ q ∈ qs, (y.queue q).wait.length < 12) → Completes .taskEnd s fun t =>
        let z := t.bay s.cur
        otherBays s.cur s t ∧ t = { s with bays := t.bays, yard := { s.yard with slots := t.yard.slots } } ∧
          parks y.gen z.gen ∧ z = { y with gen := z.gen, hangCount := 0, hangOnce := false, seqNo := y.seqNo + 1,
                                           mtx := z.mtx, vec := z.vec, cin := z.cin, cout := z.cout, cls := z.cls } ∧
          joins qs { kind := .notify, eseq := y.eseq, off := y.gen.pc.setWidth 32, seed := y.gen.srseed,
                     step := y.gen.srstep, seqNo := y.seqNo, fork := y.forks } y z ∧
          ∀ j, t.slot j = if y.task = some j then { s.slot j with endf := true, state := .ending } else s.slot j)) ∧
    Completes .taskAbort s fun t =>
      let c := y.ctx
      let drops (b : BufId) := (y.caps.filter fun e => e.2.buf == b).length
      otherBays s.cur s t ∧ vacated y (t.bay s.cur) ∧ arrivedAll (fun x => x.bay == s.cur) t ∧
        onlySlot k {} s t ∧ recorded c 0x12 s t ∧
        (((s.ctx c).evhead - (s.ctx c).evtail).toNat < 2 ^ (s.ctx c).evlg.toNat → t.home c 0xFFFFFC ≠ .table →
          leNat (t.homeBytes c 0xFFFFFC ((s.ctx c).evhead.toNat % 2 ^ (s.ctx c).evlg.toNat * 32) 32) / 2 ^ 72 % 2 ^ 24 =
            k.toNat * 256 + s.cur.toNat) ∧
        (∀ d b, t.buf? d b = if d = c ∧ 0 < drops b then
            match s.buf? d b with
            | none => none
            | some f => if f.count.toNat ≤ drops b then none else some { f with count := f.count - BitVec.ofNat 32 (drops b) }
          else s.buf? d b) ∧
        (quiet y → s.onWay (fun x => x.bay == s.cur) = false → y.tiles = [] → t.sheds = s.sheds ∧ ∀ p, (t.mem.find? p ≠ s.mem.find? p ∨ Mem.read t.host p ≠ Mem.read s.host p) →
          ∃ j, j < 32 ∧ match s.home c 0xFFFFFC with
            | .mem base => p = base + ((s.ctx c).evhead.toNat % 2 ^ (s.ctx c).evlg.toNat * 32) + j
            | .host bus => p = bus + ((s.ctx c).evhead.toNat % 2 ^ (s.ctx c).evlg.toNat * 32) + j
            | .table => False)

/-! ### Word faults at the generator (R377, R381 to R384) -/

/-- R377, R381 to R384, R49: the word-fault interrupt is taken at a boundary that nothing holds; BAY.RESUME ends the stop, or
skips the word that the fault names, without its end-of-word merges (log 22), counting a skipped head, and has mx.ldw read
its scales again (log 38); BAY.FLUSH discards words, executing copies that stand stopped among them, whose tiles take the
state that a skip gives them (R150), and keeps markers and notifies; QSTAT reads one item, its STOP also under
a debug stop or a save, item 4 the faulting word's prefixes while its queue holds the fault (log 47); each is illegal in U
mode. -/
def Obligations.fault_controls_complete : Prop :=
  (∀ (b : BayNo) (s : State), s.populated b = true →
    let y := s.bay b
    let g := y.gen
    let allowed := if (g.csrRd 0x303).getLsbD 16 then g.mode = 0 ∨ (g.mode = 1 ∧ (g.csrRd 0x300).getLsbD 1 = true)
      else g.mode ≠ 3 ∨ (g.csrRd 0x300).getLsbD 3 = true
    let taken := y.wf.valid = true ∧ (g.csrRd 0x304).getLsbD 16 = true ∧ allowed ∧ y.task ≠ none ∧ y.debugStop = false ∧
      y.saving = false ∧ ∀ i a, g.wait ≠ some (.yard i a)
    (taken → Completes (.wordFaultInterrupt b) s fun t => onlyBay b s t ∧
      t.bay b = { y with gen := (t.bay b).gen } ∧ interruptEntered 16 g (t.bay b).gen) ∧
    (¬ taken → Completes (.wordFaultInterrupt b) s fun t => onlyBay b s t ∧ t.bay b = y)) ∧
  ∀ (rd rs1 : Reg) (s : State),
    let y := s.bay s.cur
    let g := y.gen
    let v := g.rd rs1
    let npc := g.pc + 4
    let word (i : Instr) : Word := ((encodeGen i).getD 0).setWidth 64
    (g.mode = 0 → ∀ i ∈ [Instr.bayResume, .bayFlush rs1, .qstat rd rs1], Completes i s (traps 2 (word i) s)) ∧
    (g.mode ≠ 0 →
      (y.wf.valid = false ∨ 1 < y.wf.act.toNat → Completes .bayResume s (traps 26 0 s)) ∧
      (y.wf.valid = true → y.wf.act.toNat ≤ 1 → Completes .bayResume s fun t =>
        let z := t.bay s.cur
        let named (e : Entry) := e.kind = .word ∧ e.eseq = y.wf.eseq ∧ e.off = y.wf.off ∧ e.w = y.wf.word
        let executing := y.mx.arrays.map (·.ent) ++ (y.mx.port.map (·.ent)).toList ++ (y.vx.stopped.map (·.ent)).toList ++
          y.cpIn.jobs.map (·.ent) ++ y.cpOut.jobs.map (·.ent) ++ (y.kx.job.map (·.ent)).toList
        let q := y.wf.qid.toNat
        let gone := y.wf.act = 1 ∧ q < 5 ∧ ∃ e, y.head? q = some e ∧ named e
        otherBays s.cur s t ∧ genRetires [] npc g z.gen ∧ z.wf = { y.wf with valid := false, act := 0 } ∧ z.vx.pend = [] ∧
          (y.vx.pend = [] → t = { s with bays := t.bays }) ∧
          (y.vx.pend = [] → y.wf.act = 0 → z = { y with
            gen := z.gen, wf := z.wf, hangCount := 0, hangOnce := false,
            mx := { y.mx with arrays := y.mx.arrays.map fun j => { j with again := true } },
            vx := { y.vx with stopped := y.vx.stopped.map fun j => if q = 1 then { j with due := none } else j } }) ∧
          (y.vx.pend = [] → (∀ e ∈ executing, ¬ named e) → y.vx.stopped = none → gone →
            onlyQueues y { z with gen := y.gen, wf := y.wf, mx := y.mx } ∧ headsLeave (BitVec.ofNat 5 (2 ^ q)) y z) ∧
          (y.vx.pend = [] → y.wf.act = 1 → q = 0 → (∀ e ∈ y.mx.arrays.map (·.ent), ¬ named e) →
            ∀ j, y.mx.port = some j → named j.ent → z.mx.port = none ∧ z.mx.arrays.map (·.ent) = y.mx.arrays.map (·.ent)) ∧
          (y.vx.pend = [] → y.wf.act = 1 → q = 0 → (∀ j, y.mx.port = some j → ¬ named j.ent) → ∀ k j,
            y.mx.arrays[k]? = some j → named j.ent → (∀ i x, i < k → y.mx.arrays[i]? = some x → ¬ named x.ent) →
              z.mx.arrays.map (·.ent) = (y.mx.arrays.map (·.ent)).eraseIdx k ∧ z.mtx = y.mtx) ∧
          (y.vx.pend = [] → y.wf.act = 1 → ∀ p : BitVec 1, q = 2 + p.toNat → ∀ k j, (y.cp p).jobs[k]? = some j → named j.ent →
            (∀ i x, i < k → (y.cp p).jobs[i]? = some x → ¬ named x.ent) → (z.cp p).jobs = (y.cp p).jobs.eraseIdx k ∧
              z.cin = y.cin ∧ z.cout = y.cout ∧ ∀ w h, cpWord? j.instr = some w → z.tile h =
                if w.into = some h then { y.tile h with state := 0 }
                else if w.source = some h ∧ j.srcDone = false then
                  { y.tile h with state := if (y.tile h).autoe = 1 then 0 else 2 }
                else y.tile h) ∧
          (y.vx.pend = [] → y.wf.act = 1 → q = 1 → y.vx.stopped ≠ none →
            z.vx = { y.vx with stopped := none } ∧ z.vec = y.vec) ∧
          (y.vx.pend = [] → y.wf.act = 1 → 4 ≤ q → ∀ j, y.kx.job = some j → named j.ent → z.kx.job = none ∧
            z.cls = y.cls ∧ ∀ h, z.tile h = match j.instr with
              | .kxIld _ ti => if h = ti then { y.tile ti with state := 0 } else y.tile h
              | _ => y.tile h)) ∧
      (y.wf.valid = false ∨ 2 ^ 5 ≤ v.toNat → Completes (.bayFlush rs1) s (traps 26 v s)) ∧
      (y.wf.valid = true → v.toNat < 2 ^ 5 → Completes (.bayFlush rs1) s fun t =>
        let z := t.bay s.cur
        let m : BitVec 5 := v.extractLsb' 0 5
        let joined (e : Entry) : Bool := e.kind == .word && e.w.extractLsb' 29 3 == 0#3 &&
          (e.w.extractLsb' 24 5 == 2#5 || e.w.extractLsb' 24 5 == 4#5 || e.w.extractLsb' 24 5 == 6#5)
        let gone (e : Entry) : Bool := (List.range 5).any fun p => m.getLsbD p &&
          ((y.queue p).wait ++ (y.queue p).ent).any fun f => joined f && f.seqNo == e.seqNo
        let stays (q : Nat) (e : Entry) : Bool := e.kind != .word || (!m.getLsbD q && !gone e)
        otherBays s.cur s t ∧ genRetires [] npc g z.gen ∧ (y.wf.fresh = false → z.wf = y.wf) ∧ z.pend = y.pend ∧ z.eseq = y.eseq ∧
          z.task = y.task ∧ z.caps = y.caps ∧ z.bars = y.bars ∧ t.yard = s.yard ∧
          (∀ q, q < 5 → z.queue q =
            { y.queue q with wait := (y.queue q).wait.filter (stays q), ent := (y.queue q).ent.filter (stays q) }) ∧
          (m.getLsbD 0 = true → z.mx.arrays = [] ∧ z.mx.port = none) ∧ (m.getLsbD 1 = true → z.vx.stopped = none) ∧
          (m.getLsbD 4 = true → z.kx.job = none) ∧
          ∀ p : BitVec 1, m.getLsbD (2 + p.toNat) = true → (m.getLsbD (3 - p.toNat) = false ∨ (y.cp (1 - p)).jobs = []) →
            (y.cp p).jobs.length ≤ 4 → y.mx.arrays = [] → y.vx.stopped = none → y.vx.pend = [] → y.kx.job = none →
            s.onWay (fun x => x.bay == s.cur) = false →
            let jobs := (y.cp p).jobs
            let held (x : CpJob) : Bool := y.wf.qid.toNat == 2 + p.toNat && x.index == y.wf.index
            let left (x : CpJob) : Bool := (cpWord? x.instr).any fun w => decide (x.upc < (y.tile w.shape).rows)
            let faults (k : Nat) : Bool := (jobs[k]?).any fun x => s.cpMoves s.cur p k x && (s.rowFault s.cur x).isSome
            let stopped (k : Nat) : Bool := (jobs[k]?).any fun x =>
              held x || (left x && ((jobs.take k).any held || (List.range (k + 1)).any faults))
            let names (j : CpJob) (h : Byte) : Prop :=
              ∃ w, cpWord? j.instr = some w ∧ (w.into = some h ∨ w.source = some h)
            (z.cp p).jobs = ((List.range jobs.length).filter fun k => !stopped k).filterMap (fun k => jobs[k]?) ∧
              (∀ h, (∀ j ∈ jobs, ¬ names j h) → z.tile h = y.tile h) ∧
              ∀ k j w h, jobs[k]? = some j → cpWord? j.instr = some w → names j h → w.into ≠ w.source →
                (∀ i x, i ≠ k → jobs[i]? = some x → ¬ names x h) → z.tile h =
                  if stopped k = false then y.tile h
                  else if w.into = some h then { y.tile h with state := 0 }
                  else if j.srcDone = true then y.tile h
                  else { y.tile h with state := if (y.tile h).autoe = 1 then 0 else 2 }) ∧
      let q := (v.extractLsb' 0 3).toNat
      let item := (v.extractLsb' 8 3).toNat
      let bad := v.extractLsb' 3 5 ≠ 0 ∨ 2 ^ 11 ≤ v.toNat ∨ 4 < q ∨ 4 < item
      (bad → Completes (.qstat rd rs1) s (traps 26 v s)) ∧
      (¬ bad → Completes (.qstat rd rs1) s fun t =>
        let u := y.queue q
        let c := if q = 2 then y.cpIn else y.cpOut
        let copy := q = 2 ∨ q = 3
        retires [rd] npc s t ∧ (t.bay s.cur).gen.rd rd = result rd (
          if queueExists (bayKind s.cur) q = false then 0
          else if item = 0 then BitVec.ofNat 64 (2 ^ 63 + (if y.wf.valid ∨ y.debugStop ∨ y.saving then 2 ^ 62 else 0) +
            (if y.wf.valid ∧ y.wf.qid.toNat = q then 2 ^ 61 else 0) + u.ent.length * 2 ^ 52 + u.wait.length * 2 ^ 48 +
            u.issued.toNat)
          else if item = 1 then (if copy then c.bytes else 0)
          else if item = 2 then (if copy then c.last else 0)
          else if item = 3 then u.noff ++ u.ntok.setWidth 32
          else match y.statusEntry q with
            | some e => e.pfx.getD 1 0 ++ e.pfx.getD 0 0
            | none => 0)))

/-! ### The yard (R24, R25, R204, R347 to R362, R385 to R393) -/

/-- R24, R25, R109, R155, R168, R204, R242, R348, R358, R359: TASK_DISPATCH takes the waiting task of lowest effective
priority, AGE and id among those that have a bay, onto the free admitted bay of lowest number, which then stands at the
task's entry; a saved task that a bay is reading already waits no more, its bay's store and matrix state are reset, and onto
which bay it may go is the model's reading (log 21); a bay's debug stop stays (R399, log 17); each class dispatches one task
in a cycle; FALLBACK_MOVE moves a policy 2 task whose class has been busy for its limit, one in a cycle. -/
def Obligations.dispatch_completes : Prop :=
  ∀ (cls : BitVec 2) (s : State), s.ok = true →
    let kind := cls.toNat + 3
    let waiting (e : Nat × TaskSlot) : Prop :=
      (e.2.state = .ready ∨ (e.2.state = .saved ∧ e.2.saved ≠ none ∧
        ¬ ((s.bay e.2.bay).saving = true ∧ (s.bay e.2.bay).task = some (BitVec.ofNat 16 e.1)))) ∧ e.2.cls = cls
    let place (e : Nat × TaskSlot) (b : BayNo) : Prop := bayAdmits s kind (recAff e.2.record) b ∧
      (∀ c, c < b → ¬ bayAdmits s kind (recAff e.2.record) c) ∧ (e.2.state = .saved → s.canRestore e.2 b = true)
    let eff (e : Nat × TaskSlot) : Nat := recPri e.2.record - (s.now - e.2.age) / 65536
    let first (e f : Nat × TaskSlot) : Prop := eff e < eff f ∨ (eff e = eff f ∧ (e.2.age < f.2.age ∨
      (e.2.age = f.2.age ∧ e.1 ≤ f.1)))
    let order := s.yard.orders + 1
    ((∀ e ∈ s.yard.slots, waiting e → ∀ b, ¬ place e b) ∨ s.yard.dispatched.getLsbD cls.toNat = true →
      Completes (.taskDispatch cls) s fun t => t = s) ∧
    (∀ k x b, s.yard.dispatched.getLsbD cls.toNat = false → (k, x) ∈ s.yard.slots → waiting (k, x) → place (k, x) b →
      (∀ e ∈ s.yard.slots, waiting e → (∃ c, place e c) → first (k, x) e) → Completes (.taskDispatch cls) s fun t =>
        let y := s.bay b
        let z := t.bay b
        otherBays b s t ∧ homesKept s t ∧ otherSheds (shedOf b) s t ∧
          (∀ c, c < 4 → t.yard.dispatched.getLsbD c = (s.yard.dispatched.getLsbD c || c == cls.toNat)) ∧
          t.yard.fellBack = s.yard.fellBack ∧ z.task = some (BitVec.ofNat 16 k) ∧ z.ctx = x.ctx ∧
          z.lastCtx = some x.ctx ∧ z.firmware = y.firmware ∧ z.debugStop = y.debugStop ∧ z.wf.valid = false ∧ z.tiles = [] ∧ z.bars = [] ∧
          z.pend = [] ∧ z.eseq = 0 ∧ (∀ q, q < 5 → z.queue q = {}) ∧
          (x.state = .saved → z.saving = true ∧ z.store = [] ∧ z.mx = {} ∧ onlySlot (BitVec.ofNat 16 k) { x with bay := b, order := order } s t) ∧
          (x.state = .ready →
            onlySlot (BitVec.ofNat 16 k) { x with state := .running, bay := b, order := order } s t ∧ z.saving = false ∧
            z.args = x.args ∧ z.capm = x.capm ∧ z.code = x.code.buf ∧ z.csize = x.code.size ∧ z.gen.mode = 0 ∧
            z.gen.pc = BitVec.ofNat 64 (63 * 2 ^ 58 + (if x.fallback then x.code.fentry else x.code.entry) % 2 ^ 32) ∧
            (∀ r, z.gen.rd r = 0) ∧ z.gen.wait = none ∧ z.gen.parked = false ∧ z.gen.zclass = 0 ∧
            z.gen.zrelmask = 0x7FFF ∧ z.gen.hlimit = 0x00100000 ∧ z.gen.csrRd 0x304 = 0x30000 ∧
            z.gen.csrRd 0x105 = BitVec.ofNat 64 (63 * 2 ^ 58 + 4 * (s.ctx x.ctx).rtvec.toNat) ∧
            (∀ n ∈ [0x140, 0x141, 0x142, 0x143, 0x344], z.gen.csrRd n = 0) ∧
            (∀ n ∈ statusBits, (z.gen.csrRd 0x300).getLsbD n = false) ∧
            (∀ j, z.caps.find? j = if j < 6 ∧ x.capm.getLsbD j = true then
              some { buf := (x.args.getD j 0).extractLsb' 0 24, rights := (x.args.getD j 0).extractLsb' 24 4 } else none) ∧
            z.store = (if y.lastCtx = some x.ctx then y.store else []) ∧
            ∀ e ∈ (t.shed (shedOf b)).cache, e.2.mask &&& 0x7FFF ≠ 0 → e.2.dirty ≠ 0)) ∧
    ((∃ b, bayKind b = kind ∧ s.live b = true ∧ (s.bay b).task = none) ∨ s.yard.fellBack.getLsbD cls.toNat = true →
      Completes (.fallbackMove cls) s fun t => t = s) ∧
    ∀ k x, (k, x) ∈ s.yard.slots → waiting (k, x) → (∀ e ∈ s.yard.slots, waiting e → first (k, x) e) →
      (∀ b, bayKind b = kind → s.live b = true → (s.bay b).task ≠ none) → s.yard.fellBack.getLsbD cls.toNat = false →
      let moves := x.state = .ready ∧ recPol x.record = 2 ∧ x.fallback = false ∧ x.code.usable = true ∧ x.code.fbusy ≠ 0 ∧
        x.code.fbusy ≤ s.yard.busy.getD cls.toNat 0
      (¬ moves → Completes (.fallbackMove cls) s fun t => t = s) ∧
      (moves → Completes (.fallbackMove cls) s fun t =>
        t = { s with yard := { s.yard with slots := t.yard.slots, fellBack := t.yard.fellBack } } ∧
        (∀ k, k < 4 → t.yard.fellBack.getLsbD k = (s.yard.fellBack.getLsbD k || k == cls.toNat)) ∧
        onlySlot (BitVec.ofNat 16 k) { x with cls := BitVec.ofNat 2 (x.code.fclass - 3), fallback := true } s t)

/-- R354 to R357, R361, R362, R415: a completion frees its bay, whose class is busy no longer (R24), and sends one decrement
to each inline successor, or to each of its list, which is read after the task's capabilities are gone; a decrement counts
once, makes its target READY at 0, or is discarded with a record, and answers a TASK.DEC; the counting unit takes up at most
two completions or TASK.DECs in a cycle and applies at most four decrements of one, in order of arrival and then of source
bay, so that what a bay sends after a higher bay's arrival of the cycle was taken up arrives in the next (the model's choice,
log 73), and so is that a bay in a debug stop declares nothing complete; a graph of which nothing is resident ends, and adds
1 to its done word. R407: a list that no path reaches stops the queue of the task's graph with STAT 2; that each entry is
judged by itself, and that entries out of reach make records too, is the model's choice (log 72). -/
def Obligations.completions_count : Prop :=
  (∀ (b : BayNo) (s : State), s.populated b = true →
    let y := s.bay b
    let k := y.task.getD 0
    let x := s.slot k
    let done := y.task ≠ none ∧ x.endf = true ∧ y.gen.parked = true ∧ y.saving = false ∧ y.debugStop = false ∧
      ∀ q ∈ queueIds (bayKind b), y.idle q = true ∧ ∃ e, y.head? q = some e ∧ e.kind = .notify
    let n := recNsuc x.record
    let at' := if b.toNat < s.yard.unit.floor then s.now + 1 else s.now
    (¬ done → Completes (.taskCompletion b) s fun t => t = s) ∧
    (done → Completes (.taskCompletion b) s fun t =>
      otherBays b s t ∧ vacated y (t.bay b) ∧ arrivedAll (fun z => z.bay == b) t ∧
      (∀ k, k < 4 → t.yard.busy.getD k 0 = if k + 3 = bayKind b then 0 else s.yard.busy.getD k 0) ∧
      (recList x.record = false → n = 0 → onlySlot k {} s t ∧ t.yard.decs = s.yard.decs) ∧
      (recList x.record = false → n ≠ 0 → t.yard.slots = s.yard.slots ∧
        t.yard.decs = s.yard.decs ++ (List.range n).map fun j =>
          { src := k, bay := b, ctx := x.ctx, dec := 1, first := decide (j = 0), last := decide (j + 1 = n), time := at',
            target := if recRel x.record then x.gbase + recSuc x.record j else recSuc x.record j }) ∧
      (recList x.record = true → t.yard.slots = s.yard.slots ∧ ∃ ds, t.yard.decs = s.yard.decs ++ ds ∧
        ds.length = recLcnt1 x.record + 1 ∧ (∀ d ∈ ds, d.src = k ∧ d.bay = b ∧ d.ctx = x.ctx ∧ d.dec = 1 ∧ d.time = at') ∧
        (∀ j d, ds[j]? = some d → d.first = decide (j = 0) ∧ d.last = decide (j = recLcnt1 x.record)) ∧
        (∀ g, s.yard.graphs.find? x.graph.toNat = some g → t.unreachable x.ctx (recLbuf x.record) = true →
          (t.sq g.sq).stat = 2) ∧
        (t.unreachable x.ctx (recLbuf x.record) = false → t.yard.sqs = s.yard.sqs) ∧
        ∀ j d, ds[j]? = some d →
          let buf := recLbuf x.record
          let off := 64 * recLoff x.record + 2 * j
          let id : TaskId := BitVec.ofNat 16 (leNat (t.homeBytes x.ctx buf off 2))
          let reads := (∃ f, t.buf? x.ctx buf = some f ∧ off + 2 ≤ f.size) ∧ t.unreachable x.ctx buf = false ∧
            (recRel x.record = true → id.toNat < s.graphTasks x.graph)
          (reads → d.bad = false ∧ d.target = if recRel x.record then x.gbase + id else id) ∧
            (¬ reads → d.bad = true ∧ d.target = 0xFFFF)))) ∧
  (∀ s : State, s.yard.decs = [] → Completes .applyDecrement s fun t => t = s) ∧
  (∀ (j : Nat) (d : Decrement) (s : State), s.yard.decs[j]? = some d →
    (∀ (i : Nat) (e : Decrement), s.yard.decs[i]? = some e → d.time < e.time ∨
      (d.time = e.time ∧ (d.bay < e.bay ∨ (d.bay = e.bay ∧ j ≤ i)))) →
    let x := s.slot d.target
    let counts := x.state = .waiting ∧ x.ctx = d.ctx ∧ x.cntr ≠ 0
    let answer := if counts then none else some (28, BitVec.ofNat 64 (4 * 2 ^ 56 + d.target.toNat * 2 ^ 16 + d.src.toNat))
    let unit := s.yard.unit
    let due := d.time ≤ s.now ∧ (d.first = true → unit.taken < 2) ∧ (d.first = false → unit.applied < 4)
    (¬ due → Completes .applyDecrement s fun t => t = s) ∧ (due → Completes .applyDecrement s fun t =>
      t.yard.unit = { taken := if d.first = true then unit.taken + 1 else unit.taken,
                      applied := if d.first = true then 1 else unit.applied + 1,
                      floor := if d.time = s.now then max unit.floor d.bay.toNat else unit.floor } ∧
        otherBays d.bay s t ∧ t.sheds = s.sheds ∧ t.yard.decs = s.yard.decs.eraseIdx j ∧
        (∀ i, t.slot i = if d.last = true ∧ i = d.src then {}
          else if i = d.target ∧ d.bad = false ∧ counts then
            (if x.cntr = 1 then { x with cntr := 0, state := .ready, age := s.now } else { x with cntr := x.cntr - 1 })
          else s.slot i) ∧
        (d.bad = true → recorded d.ctx 0x11 s t) ∧ (d.bad = false → ¬ counts → recorded d.ctx 0x10 s t) ∧
        (d.bad = false → counts → homesKept s t ∧ t.msix = s.msix ∧ t.yard.ctxs = s.yard.ctxs) ∧
        (d.dec = 2 → ∀ i a, (s.bay d.bay).gen.wait = some (.yard i a) → a.ready = false → (s.bay d.bay).task = some d.src →
          (t.bay d.bay).gen.wait = some (.yard i { a with ready := true, fault := answer })))) ∧
  ∀ (g : BitVec 12) (s : State),
    (s.yard.graphs.find? g.toNat = none → Completes (.graphEnd g) s fun t => t = s) ∧
    ∀ x, s.yard.graphs.find? g.toNat = some x →
      let resident := ∃ e ∈ s.yard.slots, e.2.state ≠ .free ∧ e.2.graph = g
      let gone (t : State) : Prop := ∀ k, t.yard.graphs.find? k = if k = g.toNat then none else s.yard.graphs.find? k
      (resident → Completes (.graphEnd g) s fun t => t = s) ∧
      (¬ resident → x.den = false ∨ x.killed = true → Completes (.graphEnd g) s fun t =>
        gone t ∧ t = { s with yard := { s.yard with graphs := t.yard.graphs } }) ∧
      (¬ resident → x.den = true → x.killed = false → (∀ f, s.buf? x.ctx x.dbuf = some f → f.size < x.doff + 8) →
        Completes (.graphEnd g) s fun t => gone t ∧ recorded x.ctx 0x13 s t) ∧
      ∀ f base, ¬ resident → x.den = true → x.killed = false → s.buf? x.ctx x.dbuf = some f → x.doff + 8 ≤ f.size →
        s.unreachable x.ctx x.dbuf = false → s.home x.ctx x.dbuf = .mem base →
        Completes (.graphEnd g) s fun t =>
          let word (x' : State) := leNat (x'.homeBytes x.ctx x.dbuf x.doff 8)
          gone t ∧ t = { s with mem := t.mem, lofts := t.lofts, yard := { s.yard with graphs := t.yard.graphs } } ∧
            word t = (word s + 1) % 2 ^ 64 ∧
            ∀ p, ¬ (base + x.doff ≤ p ∧ p < base + x.doff + 8) → t.mem.find? p = s.mem.find? p

/-- R360, R385, R386, R388, R389: PREEMPTION orders the save of the task of greatest PRI, latest dispatch and highest bay of
its class; SAVE_COMPLETE, once every word has come to its stop, writes the container's header, directory and sections and
frees the bay; RESTORE puts the task back from the sections, waits while a tile does not fit, or kills its context where the
container is not one; what the sections of a bay hold is read back as it was. R390 to R393: the hang watchdog raises sip bit
17 at its first expiry and kills the context at a second without progress; the save watchdog kills at SWLIMIT; a kill ends
every task of its context and writes a record of KIND 0x20; CONTEXT_KILL kills for a cause that has come about in its bay
(log 67). Where an item stands in its section, the image in the slot that keeps what no section's table names, and that the
flags kept with a block scale do not return, are log 25. A bay that a debug stop holds stays stopped (R399, log 17). -/
def Obligations.saves_and_kills : Prop :=
  (∀ (cls : BitVec 2) (s : State), s.ok = true →
    let kind := cls.toNat + 3
    let wanted := (∃ e ∈ s.yard.slots, e.2.state = .ready ∧ e.2.cls = cls ∧ recPri e.2.record = 0 ∧ 1024 ≤ s.now - e.2.age) ∧
      s.yard.preBusy.getLsbD cls.toNat = false ∧ ∀ b, bayKind b = kind → s.live b = true → (s.bay b).task ≠ none
    let victim (k : Nat) (x : TaskSlot) : Prop := (k, x) ∈ s.yard.slots ∧ (x.state = .running ∨ x.state = .ending) ∧
      x.cls = cls ∧ (s.bay x.bay).task = some (BitVec.ofNat 16 k) ∧ (s.bay x.bay).saving = false ∧ (s.ctx x.ctx).pre = 1 ∧
      4 ≤ recPri x.record ∧ (s.saveRoom x.ctx ((s.bay x.bay).saveBytes (bayKind x.bay))).isSome = true
    (¬ wanted ∨ (∀ k x, ¬ victim k x) → Completes (.preemption cls) s fun t => t = s) ∧
    ∀ k x, wanted → victim k x →
      (∀ j u, victim j u → recPri u.record < recPri x.record ∨ (recPri u.record = recPri x.record ∧
        (u.order < x.order ∨ (u.order = x.order ∧ (u.bay < x.bay ∨ (j, u) = (k, x)))))) →
      Completes (.preemption cls) s fun t =>
        t = { s with bays := t.bays, yard := { s.yard with slots := t.yard.slots, preBusy := t.yard.preBusy } } ∧
          otherBays x.bay s t ∧ t.bay x.bay = { s.bay x.bay with saving := true, saveCount := 0 } ∧
          t.yard.preBusy = s.yard.preBusy ||| BitVec.ofNat 4 (2 ^ cls.toNat) ∧
          ∃ v : Saved, onlySlot (BitVec.ofNat 16 k) { x with saved := some v } s t ∧ v.off % 65536 = 0 ∧
            v.len = (s.bay x.bay).saveBytes (bayKind x.bay) ∧ v.off + v.len ≤ (s.ctx x.ctx).svmib.toNat * 2 ^ 20 ∧
            ∀ e ∈ s.yard.slots, e.2.ctx = x.ctx → ∀ w, e.2.saved = some w → w.off % 65536 = 0 → 0 < w.len →
              v.off + v.len ≤ w.off ∨ w.off + w.len ≤ v.off) ∧
  (∀ (b : BayNo) (s : State) (k : TaskId) (v : Saved), s.populated b = true →
    let y := s.bay b
    let x := s.slot k
    y.task = some k → x.saved = some v → y.saving = true →
    let busy := y.debugStop = true ∨ (∃ i a, y.gen.wait = some (.yard i a)) ∨
      (y.wf.valid = false ∧ (y.mx.arrays ≠ [] ∨ y.mx.port ≠ none)) ∨ (y.wf.valid = true ∧ s.mustRetire b = true) ∨
      (∃ j, y.vx.stopped = some j ∧ j.due = none) ∨ s.kxStands b = false
    (x.state = .saved ∨ busy → Completes (.saveComplete b) s fun t => t = s) ∧
    (x.state ≠ .saved → ¬ busy → s.home y.ctx 0xFFFFFA ≠ .table → y.saveBytes (bayKind b) < 2 ^ 32 →
      (∀ q, q < 5 → (y.queue q).ent.length ≤ 256 ∧ (y.queue q).wait.length ≤ 12) → Completes (.saveComplete b) s fun t =>
      let read (off n : Nat) : Nat := leNat (t.homeBytes y.ctx 0xFFFFFA (v.off + off) n)
      let h := read 0 64
      let kinds := sectionKinds (bayKind b)
      let off (j : Nat) := read (64 + 16 * j + 8) 8
      let len (j : Nat) := read (64 + 16 * j + 4) 4
      otherBays b s t ∧ vacated y (t.bay b) ∧ arrivedAll (fun z => z.bay == b) t ∧
        (∀ k, k < 4 → t.yard.busy.getD k 0 = if k + 3 = bayKind b then 0 else s.yard.busy.getD k 0) ∧ t.yard.preBusy = s.yard.preBusy &&& ~~~(BitVec.ofNat 4 (2 ^ (bayKind b - 3))) ∧
        (∃ img : Bay, onlySlot k { x with state := .saved, age := s.now, saved := some { v with img := img } } s t ∧
          img.gen = y.gen ∧ img.wf = y.wf ∧ img.caps = y.caps ∧ img.eseq = y.eseq ∧ img.pend = y.pend ∧
          img.counters = [] ∧ (∀ q, q < 5 → img.queue q = y.queue q) ∧
          ∀ j n, kinds[j]? = some 8 → n < 256 →
            read (off j + 48 * n) 48 = (img.tile (BitVec.ofNat 8 n)).saved.toNat) ∧
        h % 2 ^ 32 = 0x5653575A ∧ h / 2 ^ 40 % 256 = 1 ∧ h / 2 ^ 64 % 2 ^ 64 = s.now % 2 ^ 64 ∧ h / 2 ^ 128 % 2 = 1 ∧
        h / 2 ^ 130 % 64 = y.ctx.toNat ∧ h / 2 ^ 136 % 256 = bayKind b ∧ h / 2 ^ 144 % 65536 = k.toNat ∧
        h / 2 ^ 48 % 65536 = 64 ∧ h / 2 ^ 160 % 2 ^ 32 = kinds.length ∧
        h / 2 ^ 192 % 2 ^ 64 = off (kinds.length - 1) + len (kinds.length - 1) ∧ off 0 = 64 + 16 * kinds.length ∧
        (∀ j n, kinds[j]? = some n → read (64 + 16 * j) 4 = n ∧ (j + 1 < kinds.length → off (j + 1) = off j + len j)) ∧
        (∀ r : Reg, r ≠ 0 → read (off 0 + 8 * (r.toNat - 1)) 8 = (y.gen.rd r).toNat) ∧
        read (off 0 + 8 * 31) 8 = y.gen.pc.toNat)) ∧
  (∀ (d y : Bay) (kind : Nat), y.pend.length ≤ 10 → y.mx.w.hi < 2 ^ 32 →
    let z := d.placeBack y kind fun k => Cell.save (y.sectionCells k) y
    let w := y.mx.w
    let blocks := if w.g1 = 1 ∧ w.hi ≠ 0 then (w.hi - 1) / 64 + 1 else 0
    (kind ≠ 3 → z = y) ∧ (kind = 3 → z = { y with mx := { y.mx with w := z.mx.w } } ∧
      z.mx.w = { w with data := z.mx.w.data, scale := z.mx.w.scale } ∧
      (∀ k, Tab.get 0 z.mx.w.data k =
        if k < 128 * w.hi then BitVec.ofNat 32 ((Tab.get 0 w.data k).toNat % 2 ^ fmtBits w.fmt) else 0) ∧
      ∀ k, (Tab.get {} z.mx.w.scale k : WScale) =
        { bits := if k < 128 * blocks then (Tab.get {} w.scale k : WScale).bits else 0x3F800000, flags := 0 })) ∧
  (∀ (b : BayNo) (s : State) (k : TaskId) (v : Saved), s.populated b = true → s.ok = true →
    let y := s.bay b
    let x := s.slot k
    y.task = some k → x.saved = some v → x.state = .saved → y.saving = true →
    let read (off n : Nat) : List Byte := s.homeBytes x.ctx 0xFFFFFA (v.off + off) n
    let h : BitVec 512 := BitVec.ofNat 512 (leNat (read 0 64))
    let dir := (List.range (h.extractLsb' 160 32).toNat).map fun j => BitVec.ofNat 128 (leNat (read (64 + 16 * j) 16))
    let good := h.extractLsb' 0 32 = 0x5653575A ∧ h.extractLsb' 40 8 = 1 ∧ h.extractLsb' 128 1 = 1 ∧
      (h.extractLsb' 136 8).toNat = bayKind b ∧
      ∀ d ∈ dir, (1 ≤ (d.extractLsb' 0 16).toNat ∧ (d.extractLsb' 0 16).toNat ≤ 9) ∨ d.extractLsb' 16 1 = 1
    (¬ good → Completes (.restore b) s fun t => contextEnded x.ctx s t ∧ recorded x.ctx 0x20 s t) ∧
    let sec := sectionBytesOf read dir
    let img := (y.bind k x (s.ctx x.ctx).rtvec).placeBack v.img (bayKind b) sec
    let fits := ∃ ts, placeTiles [] (s.occupied b 1) (savedTiles (sec 8)) = some ts
    (good → ¬ fits → Completes (.restore b) s fun t => t = s) ∧
    (good → fits → Completes (.restore b) s fun t =>
        let z := t.bay b
        otherBays b s t ∧ homesKept s t ∧
          onlySlot k { x with state := if x.endf then .ending else .running, saved := none } s t ∧
          z.task = some k ∧ z.ctx = x.ctx ∧ z.saving = false ∧ z.debugStop = y.debugStop ∧ z.icache = [] ∧ z.dcache = [] ∧
          z.gen = { img.gen with csr := z.gen.csr, wait := none } ∧ z.caps = v.img.caps ∧ z.wf = img.wf ∧
          z.eseq = img.eseq ∧ z.pend = img.pend ∧
          (∀ q, q < 5 → z.queue q =
            { img.queue q with ent := (img.queue q).ent.map fun e => { e with since := none } }) ∧
          (∀ n ∈ [0x304, 0x344, 0x105, 0x140, 0x141, 0x142, 0x143], z.gen.csrRd n = img.gen.csrRd n) ∧
          (∀ n ∈ statusBits, (z.gen.csrRd 0x300).getLsbD n = (img.gen.csrRd 0x300).getLsbD n) ∧
          ∀ n ∈ [0x302, 0x303, 0x305, 0x340, 0x341, 0x342, 0x343], z.gen.csrRd n = y.gen.csrRd n)) ∧
  (∀ (b : BayNo) (s : State) (k : TaskId), s.populated b = true → s.ok = true → (s.bay b).task = some k →
    let y := s.bay b
    let expired := y.gen.hlimit ≠ 0 ∧ 1024 * y.gen.hlimit.toNat ≤ y.hangCount
    let late := y.saving = true ∧ (s.slot k).state ≠ .saved ∧ 1024 * max 1 (s.ctx y.ctx).swlimit.toNat ≤ y.saveCount
    (¬ expired → Completes (.hang b) s fun t => t = s) ∧
    (expired → y.hangOnce = false → Completes (.hang b) s fun t => onlyBay b s t ∧
      let z := t.bay b
      z = { y with gen := { y.gen with csr := z.gen.csr }, hangCount := 0, hangOnce := true } ∧
        ∀ n, z.gen.csrRd n = if n = 0x344 then y.gen.csrRd 0x344 ||| 0x20000 else y.gen.csrRd n) ∧
    (expired → y.hangOnce = true → Completes (.hang b) s fun t => contextEnded y.ctx s t ∧ recorded y.ctx 0x20 s t) ∧
    (¬ late → Completes (.saveTimeout b) s fun t => t = s) ∧
    (late → Completes (.saveTimeout b) s fun t => contextEnded y.ctx s t ∧ recorded y.ctx 0x20 s t)) ∧
  ∀ (c : CtxNo) (cause : Byte) (k : TaskId) (b : BayNo) (s : State), s.ok = true → s.populated b = true →
    let y := s.bay b
    let due := y.task = some k ∧ y.ctx = c ∧
      ((cause = 1 ∧ y.gen.hlimit ≠ 0 ∧ 1024 * y.gen.hlimit.toNat ≤ y.hangCount ∧ y.hangOnce = true) ∨
        (cause = 2 ∧ y.saving = true ∧ (s.slot k).state ≠ .saved ∧
          1024 * max 1 (s.ctx c).swlimit.toNat ≤ y.saveCount) ∨
        (cause = 3 ∧ ∃ x v, s.toRestore b = some (k, x, v) ∧
          containerOk (s.containerHead x v) (s.containerDir x v) (bayKind b) = false) ∨
        (cause = 6 ∧ y.gen.mfault = true))
    (¬ due → Completes (.contextKill c cause k b) s fun t => t = s) ∧
    (due → Completes (.contextKill c cause k b) s fun t =>
      let x := s.ctx c
      let r := leNat (t.homeBytes c 0xFFFFFC (x.evhead.toNat % 2 ^ x.evlg.toNat * 32) 32)
      contextEnded c s t ∧ recorded c 0x20 s t ∧
        ((x.evhead - x.evtail).toNat < 2 ^ x.evlg.toNat → t.home c 0xFFFFFC ≠ .table →
          r / 2 ^ 64 % 2 ^ 32 = k.toNat * 2 ^ 16 + b.toNat * 2 ^ 8 + cause.toNat))

/-! ### Submission queues and packets (R368 to R376, R422) -/

/-- R368, R370, R375, R376: DOORBELL takes a TAIL within the ring; RESET, EN, HALT and its clearing act on the queue's
registers, HALT stopping a queue that stands before a packet; PACKET_FETCH reads further dwords, no further than 64 behind
those that have begun. -/
def Obligations.queue_registers_complete : Prop :=
  ∀ (q : BitVec 6) (s : State),
    let x := s.sq q
    let one (f : Sq) := onlySq q f s
    (∀ tail : BitVec 22, Completes (.doorbell q tail) s
      (one { x with tail := if tail.toNat < 2 ^ x.lsize.toNat then tail else x.tail })) ∧
    Completes (.sqReset q) s (one { x with
      head := 0, tail := 0, stat := 0, bpn := 0, levels := [{}], skip := 0, loop := none, waiting := false, image := none,
      bpPass := false }) ∧
    (∀ v : BitVec 1, Completes (.en q v) s (one { x with en := v == 1 })) ∧
    (let stops := x.en = true ∧ x.stat = 0 ∧ x.waiting = false ∧ x.left ≠ 0
     (¬ stops → Completes (.halt q) s (one { x with halt := true })) ∧
     (stops → Completes (.halt q) s fun t => t.msix = s.msix ++ [(x.func, 2 + q.toNat)] ∧
       ∃ soff slev, onlySq q { x with
           halt := true, stat := 6, bpn := 0, soff := soff, slev := slev, waiting := false, image := none } s
         { t with msix := s.msix } ∧
         ∀ l : Level, x.levels = [l] → l.buf = none → soff = BitVec.ofNat 30 l.pos ∧ slev = 0)) ∧
    (x.stat ≠ 6 → x.stat ≠ 7 → Completes (.haltClear q) s (one { x with halt := false })) ∧
    (x.stat = 6 ∨ x.stat = 7 →
      Completes (.haltClear q) s (one { x with halt := false, stat := 0, bpn := 0, bpPass := x.stat == 7 })) ∧
    ∀ (n : BitVec 7) (ls : List Level) (l : Level), x.levels = ls ++ [l] →
      (x.en = false ∨ x.stat ≠ 0 → Completes (.packetFetch q n) s fun t => t = s) ∧
      (x.en = true → x.stat = 0 → Completes (.packetFetch q n) s fun t =>
        let begun := if x.waiting then 1 + ((l.win.getD 0 0).extractLsb' 16 10).toNat else 0
        let want := min (begun + 64) (l.win.length + n.toNat)
        ∃ ws : List W32, onlySq q { x with levels := ls ++ [{ l with win := l.win ++ ws }] } s t ∧
          l.win.length + ws.length = max l.win.length (min want x.left) ∧
          ∀ k, k < ws.length → ws[k]? = some (s.levelDword x (l.win.length + k)))

/-- R371, R373 to R375, R414, R422: the control packets and those that write: each ends its queue's turn past its dwords, or
stops the queue with the STAT of what it broke, or waits where the rule makes it wait; WAIT_REREAD judges the waiting WAIT
again. That HEAD stays behind a LOOP while
its body repeats, and that a body's end in an indirect buffer is judged when the LOOP executes, is the model's reading
(log 53). The discovery table takes no write (R17). IFLUSH leaves no line of its buffer in a shed cache or instruction cache;
that it first writes their dirty bytes to their homes, where a path reaches them, and changes no other byte, is the model's
reading too (logs 53 and 72); that DMA reads its source before it writes, and that SIGNAL needs W alone, is log 73. -/
def Obligations.packets_complete : Prop :=
  ∀ (s : State) (a : PAddr),
    let q := s.curSq
    let x := s.sq q
    let c := x.ctx
    let wordAt (a : PAddr) : Word := BitVec.ofNat 64 (leNat (s.homeBytes c a.buf a.off.toNat 8))
    let ends (n : Nat) (t : State) : Prop := packetEnds n s t ∧ t = { s with yard := t.yard }
    let writes (n : Nat) (a : PAddr) (bs : List Byte) (t : State) : Prop := packetEnds n s t ∧
      t = { s with yard := t.yard, mem := t.mem, host := t.host } ∧ onlyHome c a.buf a.off.toNat bs.length s t ∧
        t.homeBytes c a.buf a.off.toNat bs.length = bs
    (∀ n, Completes (.nop n) s (ends (1 + n.toNat))) ∧
    (∀ data : List W32,
      (¬ usable s a (4 * data.length) 4 2 → Completes (.write a data) s (queueStops 2 s)) ∧
      (usable s a (4 * data.length) 4 2 → s.home c a.buf ≠ .table → Completes (.write a data) s
        (writes (3 + data.length) a (data.flatMap fun d => leBytes d.toNat 4)))) ∧
    (Completes .ffence s fun t => ∃ z : Sq, stepsPast 1 x z ∧
      onlySq q { z with levels := z.levels.map fun l => { l with win := [] } } s t) ∧
    (∀ (cmp : BitVec 3) (v : Word) (n : BitVec 10),
      (¬ usable s a 8 8 1 → Completes (.pred cmp a v n) s (queueStops 2 s) ∧ Completes (.wait cmp a v) s (queueStops 2 s)) ∧
      (usable s a 8 8 1 → compares cmp (wordAt a) v →
        Completes (.pred cmp a v n) s (ends 6) ∧ Completes (.wait cmp a v) s (ends 5)) ∧
      (usable s a 8 8 1 → ¬ compares cmp (wordAt a) v → Completes (.wait cmp a v) s (packetWaits s) ∧
        Completes (.pred cmp a v n) s fun t => stepsPast 6 { x with skip := n.toNat } (t.sq q) ∧ onlySq q (t.sq q) s t)) ∧
    (∀ (r : BitVec 6) (cmp : BitVec 3) (v : Word) (u : State),
      ((s.sq r).waiting = false → Completes (.waitReread r) s fun t => t = s) ∧
      ((s.sq r).waiting = true → s.turn r = .run (.wait cmp a v) u →
        Completes (.waitReread r) s fun t => exec (.wait cmp a v) u = .next t) ∧
      ((∀ cmp a v u, s.turn r ≠ .run (.wait cmp a v) u) → Completes (.waitReread r) s fun t => t = s) ∧
      ∀ (ls : List Level) (l : Level) (h : W32) (ds : List W32), (Instr.wait cmp a v).wf = true →
        encodePacket (.wait cmp a v) = some (h, ds) → (s.sq r).levels = ls ++ [l] → (h :: ds) <+: l.win → 5 ≤ (s.sq r).left →
        (s.sq r).waiting = true → (s.sq r).en = true → (s.sq r).stat = 0 → (s.sq r).skip = 0 →
        (∀ b o, l.buf = some (b, o) → s.unreachable (s.sq r).ctx b = false) →
        Completes (.waitReread r) s fun t => ∃ z more, exec (.wait cmp a v) z = .next t ∧
          z = { s with curSq := r, yard := { s.yard with sqs := z.yard.sqs } } ∧ (∀ p, p ≠ r → z.sq p = s.sq p) ∧
          z.sq r = { s.sq r with levels := ls ++ [{ l with win := l.win ++ more }] }) ∧
    (∀ (op : BitVec 2) (waitg : BitVec 1) (v : Word), op ≠ 3 →
      let may := usable s a 8 8 2 ∧ (op = 0 ∨ s.isHost c a.buf = false)
      let held := waitg = 1 ∧ ∃ e ∈ s.yard.graphs, e.2.sq = q
      let old := (wordAt a).toNat
      let new := if op = 0 then v.toNat else if op = 1 then (old + v.toNat) % 2 ^ 64 else max old v.toNat
      (¬ may → Completes (.signal op waitg a v) s (queueStops 2 s)) ∧
      (may → held → Completes (.signal op waitg a v) s (packetWaits s)) ∧
      (may → ¬ held → s.home c a.buf ≠ .table →
        Completes (.signal op waitg a v) s (writes 5 a (leBytes new 8)))) ∧
    (∀ (dst : PAddr) (n : W32),
      let may := usable s a n.toNat 4 1 ∧ usable s dst n.toNat 4 2
      (¬ may → Completes (.dma a dst n) s (queueStops 2 s)) ∧
      (may → s.home c dst.buf ≠ .table → Completes (.dma a dst n) s (writes 7 dst (s.homeBytes c a.buf a.off.toNat n.toNat)))) ∧
    (∀ buf : BufId,
      (s.buf? c buf = none → Completes (.iflush buf) s (queueStops 2 s)) ∧
      (s.buf? c buf ≠ none → Completes (.iflush buf) s fun t => packetEnds 2 s t ∧
        t = { s with yard := t.yard, mem := t.mem, host := t.host, sheds := t.sheds, bays := t.bays, lofts := t.lofts } ∧
        (∀ n, ∀ e ∈ (t.shed n).cache, keyOf c buf e.1 = false) ∧
        let dirty (p : Nat) (v : Byte) : Prop := ∃ n key l base k, (s.shed n).cache.find? key = some l ∧
          keyOf c buf key = true ∧ k < 64 ∧ l.dirty.getLsbD k = true ∧ s.home c buf = .mem base ∧
          s.unreachable c buf = false ∧ p = base + keyOff key + k ∧ v = l.data.getD k 0
        (∀ p v, dirty p v → ∃ v', dirty p v' ∧ t.mem.find? p = some v') ∧
        (∀ p, (∀ v, ¬ dirty p v) → t.mem.find? p = s.mem.find? p) ∧
        ((∀ n key l, (s.shed n).cache.find? key = some l → keyOf c buf key = true → s.isHost c buf = true → l.dirty = 0) →
          t.host = s.host) ∧
        (∀ n key, keyOf c buf key = false → (t.shed n).cache.find? key = (s.shed n).cache.find? key) ∧
        ∀ b, t.bay b = { s.bay b with icache := (s.bay b).icache.filter fun e => !keyOf c buf e.1 })) ∧
    ∀ (ls : List Level) (l : Level), x.levels = ls ++ [l] →
      let past (n : Nat) : Level :=
        { l with pos := if l.buf = none then (l.pos + n) % 2 ^ x.lsize.toNat else l.pos + n, win := l.win.drop n }
      (∀ rep1 body1 : BitVec 8,
        let bad := x.loop ≠ none ∨ (l.buf ≠ none ∧ s.bodyFits x (body1.toNat + 1) 1 = false)
        (bad → Completes (.loop rep1 body1) s (queueStops 1 s)) ∧
        (¬ bad → Completes (.loop rep1 body1) s (onlySq q { x with
          levels := ls ++ [past 1], waiting := false, bpPass := false,
          loop := some { level := ls.length, start := (past 1).pos, count := body1.toNat + 1, left := body1.toNat + 1,
                         passes := rep1.toNat + 1, pass := 0 } } s))) ∧
      ∀ len : BitVec 20,
        (2 ≤ ls.length → Completes (.ind a len) s (queueStops 1 s)) ∧
        (ls.length < 2 → ¬ usable s a (4 * len.toNat) 4 1 → Completes (.ind a len) s (queueStops 2 s)) ∧
        (ls.length < 2 → usable s a (4 * len.toNat) 4 1 → Completes (.ind a len) s (onlySq q { x with
          levels := ls ++ [past 4] ++ [{ buf := some (a.buf, a.off.toNat), len := len.toNat }],
          waiting := false, bpPass := false } s))

/-- R352, R353, R362, R372, R375: LAUNCH reads its image once and stops the queue at what is wrong with its header; it waits
while the context has no room for its tasks, with the image as it was read (that its records are read with its header is
the model's choice, log 73); and then judges and places every record in a run of slots, of one new graph. That the graph
takes the lowest free number is the model's choice (log 32). -/
def Obligations.launch_places : Prop :=
  ∀ (lix : BitVec 1) (a : PAddr) (tag : W32) (s : State), s.ok = true →
    let q := s.curSq
    let x := s.sq q
    let c := x.ctx
    let i := Instr.launch lix a tag
    let found : BitVec 512 := BitVec.ofNat 512 (leNat (s.homeBytes c a.buf a.off.toNat 64))
    let tasks (h : BitVec 512) : Nat := (h.extractLsb' 64 32).toNat
    let dbuf (h : BitVec 512) : BufId := h.extractLsb' 128 24
    let doff (h : BitVec 512) : Nat := (h.extractLsb' 160 48).toNat
    let headed := found.extractLsb' 0 64 = 0x004000014947575A ∧ tasks found ≠ 0 ∧ tasks found ≤ 65536 ∧
      (found.extractLsb' 96 1 = 1 → ∃ f, s.buf? c (dbuf found) = some f ∧ f.host = none ∧ doff found + 8 ≤ f.size)
    let all := 64 + 64 * tasks found
    let free (j : Nat) := j < 65536 ∧ ∀ e ∈ s.yard.slots, e.1 = j → e.2.state = .free
    let unused (g : Nat) := g < 4096 ∧ ∀ e ∈ s.yard.graphs, e.1 ≠ g
    (x.image = none → ¬ usable s a 64 64 1 → Completes i s (queueStops 2 s)) ∧
    (x.image = none → usable s a 64 64 1 → ¬ headed → Completes i s (queueStops 3 s)) ∧
    (x.image = none → usable s a 64 64 1 → headed → ¬ usable s a all 64 1 → Completes i s (queueStops 2 s)) ∧
    (∀ (h : BitVec 512) (image : List TaskRecord), image.length = tasks h → tasks h ≠ 0 → tasks h ≤ 65536 →
      x.image = some (h, image) ∨ (x.image = none ∧ headed ∧ usable s a all 64 1 ∧ h = found ∧
        image = s.imageRecords c a (tasks found)) →
      let n := tasks h
      let run (b : Nat) := ∀ j, j < n → free (b + j)
      let fits := s.resident c + n ≤ (s.ctx c).qslot.toNat
      let rs := match x.loop with
        | some lp => if lix = 1 then image.map (withPass lp.pass) else image
        | none => image
      ((∀ b, ¬ run b) ∨ (∀ g, ¬ unused g) ∨ ¬ fits →
        Completes i s (onlySq q { x with waiting := true, image := some (h, image) } s)) ∧
      ∀ b g, run b → (∀ b', b' < b → ¬ run b') → unused g → (∀ g', g' < g → ¬ unused g') → fits →
        (∀ e, s.judgeAll c n rs = .error e → Completes i s fun t =>
          queueStops (match e with | .malformed => 3 | .code => 4 | .absent => 5 | .cap => 8 | .remote => 2) s { t with sheds := s.sheds }) ∧
        ∀ js, s.judgeAll c n rs = .ok js → Completes i s fun t =>
          let refs (id : BufId) := (rs.map fun r => ((List.range 6).filter fun k =>
            (recCapm r).getLsbD k && (recArg r k).extractLsb' 0 24 == id).length).sum
          t = { s with yard := t.yard, sheds := t.sheds } ∧ stepsPast 5 x (t.sq q) ∧ (∀ p, p ≠ q → t.sq p = s.sq p) ∧
            (∀ k, t.yard.graphs.find? k = if k = g then
              some { ntask := n, ctx := c, den := h.getLsbD 96, dbuf := dbuf h, doff := doff h, sq := q }
              else s.yard.graphs.find? k) ∧
            (∀ d id, t.buf? d id = if d = c then (s.buf? d id).map fun f => { f with count := f.count + BitVec.ofNat 32 (refs id) }
              else s.buf? d id) ∧
            (∀ k r m, js[k]? = some (r, m) → rs[k]? = some r ∧ t.slot (BitVec.ofNat 16 (b + k)) =
              { state := if recCnt r = 0 then .ready else .waiting, ctx := c, cntr := recCnt r, graph := BitVec.ofNat 12 g,
                gbase := BitVec.ofNat 16 b, age := if recCnt r = 0 then s.now else 0, record := r, code := m.1,
                args := (List.range 6).map (recArg r), capm := recCapm r, cls := m.2.1, fallback := m.2.2 }) ∧
            js.length = n ∧ ∀ k : TaskId, ¬ (b ≤ k.toNat ∧ k.toNat < b + n) → t.slot k = s.slot k)

/-! ### Commands and the package's edges (R394 to R412) -/

/-- R185, R186, R210, R395, R396, R409, R410: a command is discarded while BUSY; else BUSY rises, STATUS and the result it
will end with are decided (4 for a context in the wrong state, 2 for a bad argument, 3 without room), and its effect is made;
COMMAND_COMPLETION then writes them, clears BUSY and raises vector 1. The model's readings: that a command is discarded
before the package is ready (R16, R408), STATUS 2 for LOADFW outside recovery, for a GRANT of an owned object and for a
REVOKE by another context, STATUS 4 ahead of them, and that recovery mode takes ATTEST and LOADFW only, are log 55; what
IMPORT finds of a peer's buffer is a free value (log 27); the order of the attestation report is log 5; that the system
buffers read zero is log 6; that TRLG and EVLG are taken as written is log 73; when the buffers fit, and that a page index of
REMAP is an index at each loft, is log 49. -/
def Obligations.commands_complete : Prop :=
  ∀ (c : CtxNo) (s : State), s.ok = true →
    let k := s.yard.cmd
    let x := s.ctx c
    let begun (op : Nat) (c : CtxNo) (a0 a1 a2 : Word) (st : Byte) (res : BitVec 24) (t : State) : Prop :=
      t.yard.cmd = { k with cmd := BitVec.ofNat 64 (op + 256 * c.toNat), busy := true, code := 0, result := 0,
                            pend := some (st, res), arg0 := a0, arg1 := a1, arg2 := a2 }
    let only (t : State) : Prop := t = { s with yard := { s.yard with cmd := t.yard.cmd } }
    let bufsKept (id : BufId) (t : State) : Prop := ∀ d j, (d, j) ≠ (c, id) → t.buf? d j = s.buf? d j
    let grantWord (n : BitVec 4) (r : BitVec 1) (j : BitVec 5) : Word :=
      BitVec.ofNat 64 (j.toNat * 32 + r.toNat * 16 + n.toNat)
    let imprtWord (p pc : BitVec 6) (pb : BufId) : Word := BitVec.ofNat 64 (pb.toNat * 4096 + pc.toNat * 64 + p.toNat)
    let argued (a0 a1 a2 : Word) : State :=
      { s with yard := { s.yard with cmd := { k with arg0 := a0, arg1 := a1, arg2 := a2 } } }
    let heard := s.boot.recov = false ∧ s.boot.done = true
    let barred (b : BufId) : BitVec 4 := if b = 0xFFFFFF ∨ b = 0xFFFFFB ∨ b = 0xFFFFFA then 2 else 0
    let lowest (id : BufId) := s.buf? c id = none ∧ id < 0xFFFFF0 ∧ x.incs < 2 ^ 48 ∧ ∀ j, j < id → s.buf? c j ≠ none
    (k.busy = true → ∀ n r j bus size w p pc pb buf page, ∀ i ∈ [Instr.create c, .destroy c, .kill c, .grant c n r j,
        .revoke c n r j, .hostbuf c bus size w, .imprt c p pc pb w, .remap c buf page, .attest bus size, .loadfw bus size],
      Completes i s fun t => t = s) ∧
    (k.pend = none → Completes .commandCompletion s fun t => t = s) ∧
    (∀ st res, k.pend = some (st, res) → Completes .commandCompletion s fun t =>
      t = { s with msix := s.msix ++ [(0, 1)],
                   yard := { s.yard with cmd := { k with busy := false, code := st, result := res, pend := none } } }) ∧
    (k.busy = false → ¬ heard → ∀ n r j bus size w p pc pb buf page,
      (∀ i ∈ [Instr.create c, .destroy c, .kill c], Completes i s fun t => t = s) ∧
      (∀ i ∈ [Instr.grant c n r j, .revoke c n r j], Completes i s fun t => t = argued (grantWord n r j) k.arg1 k.arg2) ∧
      Completes (.hostbuf c bus size w) s (fun t => t = argued bus size (w.setWidth 64)) ∧
      Completes (.imprt c p pc pb w) s (fun t => t = argued (imprtWord p pc pb) (w.setWidth 64) k.arg2) ∧
      Completes (.remap c buf page) s (fun t => t = argued (buf.setWidth 64) page k.arg2) ∧
      (s.boot.recov = false → ∀ i ∈ [Instr.attest bus size, .loadfw bus size],
        Completes i s fun t => t = argued bus size k.arg2)) ∧
    (k.busy = false → heard →
      (x.valid = true → Completes (.create c) s fun t => begun 1 c k.arg0 k.arg1 k.arg2 4 0 t ∧ only t) ∧
      (x.valid = false → x.rtkib.toNat < 4 → Completes (.create c) s fun t => begun 1 c k.arg0 k.arg1 k.arg2 2 0 t ∧ only t) ∧
      (x.valid = false → 4 ≤ x.rtkib.toNat →
        let sys := systemBufs x
        let before (n : Nat) : State := (sys.take n).foldl (fun u e => u.createBuf c e.1 { size := e.2 }) s
        let fits := ∀ n e, sys[n]? = some e → e.1 ≠ 0xFFFFFF → (before n).framesFree { size := e.2 } = true
        (s.yard.bufs = [] → x.evlg.toNat ≤ 16 → x.trlg.toNat ≤ 16 → fits) ∧
        (¬ fits → Completes (.create c) s fun t => begun 1 c k.arg0 k.arg1 k.arg2 3 0 t ∧ only t) ∧
        (fits → Completes (.create c) s fun t => begun 1 c k.arg0 k.arg1 k.arg2 0 0 t ∧ (t.ctx c).valid = true ∧
          (∀ d, d ≠ c → t.ctx d = s.ctx d) ∧
          (∀ e ∈ sys, (t.buf? c e.1).map (·.size) = some e.2) ∧
          (∀ d id, d ≠ c ∨ (∀ e ∈ sys, e.1 ≠ id) → t.buf? d id = s.buf? d id) ∧
          ∀ e ∈ sys, e.1 ≠ 0xFFFFFF → ∀ off, off < e.2 → t.homeByte c e.1 off = 0)) ∧
      (x.valid = false → ∀ n r j bus size w p pc pb buf page,
        Completes (.destroy c) s (fun t => begun 2 c k.arg0 k.arg1 k.arg2 4 0 t ∧ only t) ∧
        Completes (.kill c) s (fun t => begun 3 c k.arg0 k.arg1 k.arg2 4 0 t ∧ only t) ∧
        Completes (.grant c n r j) s (fun t => begun 4 c (grantWord n r j) k.arg1 k.arg2 4 0 t ∧ only t) ∧
        Completes (.revoke c n r j) s (fun t => begun 5 c (grantWord n r j) k.arg1 k.arg2 4 0 t ∧ only t) ∧
        Completes (.hostbuf c bus size w) s (fun t => begun 6 c bus size (w.setWidth 64) 4 0 t ∧ only t) ∧
        Completes (.imprt c p pc pb w) s (fun t => begun 7 c (imprtWord p pc pb) (w.setWidth 64) k.arg2 4 0 t ∧ only t) ∧
        Completes (.remap c buf page) s (fun t => begun 8 c (buf.setWidth 64) page k.arg2 4 0 t ∧ only t)) ∧
      (x.valid = true →
        (Completes (.destroy c) s fun t => begun 2 c k.arg0 k.arg1 k.arg2 0 0 t ∧ (t.ctx c).valid = false ∧
          (∀ id, t.buf? c id = none) ∧ (∀ d id, d ≠ c → (s.resident c = 0 → t.buf? d id = s.buf? d id)) ∧
          (s.resident c ≠ 0 → contextEnded c s t)) ∧
        (Completes (.kill c) s fun t => begun 3 c k.arg0 k.arg1 k.arg2 0 0 t ∧ contextEnded c s t ∧ recorded c 0x20 s t) ∧
        (∀ (n : BitVec 4) (r : BitVec 1) (j : BitVec 5),
          let exists' := s.shedUp n = true ∧ (r = 0 ∨ j.toNat < 8)
          let owner := if r = 0 then (Tab.get {} (s.shed n).bars j.toNat : Barrier).owner
            else (Tab.get {} (s.shed n).rings j.toNat : Ring).owner
          let frame (op : Nat) (t : State) : Prop := begun op c (grantWord n r j) k.arg1 k.arg2 0 0 t ∧ otherSheds n s t ∧
            t = { s with sheds := t.sheds, yard := { s.yard with cmd := t.yard.cmd } } ∧
            (t.shed n) = { s.shed n with bars := (t.shed n).bars, rings := (t.shed n).rings }
          (¬ exists' ∨ owner ≠ none → Completes (.grant c n r j) s fun t =>
            begun 4 c (grantWord n r j) k.arg1 k.arg2 2 0 t ∧ only t) ∧
          (¬ exists' ∨ owner ≠ some c → Completes (.revoke c n r j) s fun t =>
            begun 5 c (grantWord n r j) k.arg1 k.arg2 2 0 t ∧ only t) ∧
          (exists' → owner = none → Completes (.grant c n r j) s fun t => frame 4 t ∧
            (∀ i, Tab.get {} (t.shed n).bars i = if r = 0 ∧ i = j.toNat then { owner := some c } else Tab.get {} (s.shed n).bars i) ∧
            ∀ i, Tab.get {} (t.shed n).rings i = if r = 1 ∧ i = j.toNat then { owner := some c } else Tab.get {} (s.shed n).rings i) ∧
          (exists' → owner = some c → Completes (.revoke c n r j) s fun t => frame 5 t ∧
            (∀ i, Tab.get {} (t.shed n).bars i = if r = 0 ∧ i = j.toNat then
              ({ (Tab.get {} (s.shed n).bars i : Barrier) with owner := none }) else Tab.get {} (s.shed n).bars i) ∧
            ∀ i, Tab.get {} (t.shed n).rings i = if r = 1 ∧ i = j.toNat then
              ({ (Tab.get {} (s.shed n).rings i : Ring) with owner := none }) else Tab.get {} (s.shed n).rings i)) ∧
        (∀ (bus size : Word) (w : BitVec 4),
          let bad := bus.toNat % 4096 ≠ 0 ∨ size = 0 ∨ 2 ^ 48 < size.toNat
          (bad → Completes (.hostbuf c bus size w) s fun t => begun 6 c bus size (w.setWidth 64) 2 0 t ∧ only t) ∧
          (¬ bad → (∀ id, ¬ lowest id) → Completes (.hostbuf c bus size w) s fun t =>
            begun 6 c bus size (w.setWidth 64) 3 0 t ∧ only t) ∧
          ∀ id, ¬ bad → lowest id → Completes (.hostbuf c bus size w) s fun t =>
            begun 6 c bus size (w.setWidth 64) 0 id t ∧ bufsKept id t ∧ homesKept s t ∧ t.sheds = s.sheds ∧
              t.buf? c id = some { size := size.toNat, host := some bus, rights := w, inc := BitVec.ofNat 48 x.incs } ∧
              t.ctx c = { x with incs := x.incs + 1 }) ∧
        (∀ (p pc : BitVec 6) (pb : BufId) (w : BitVec 4),
          let ends (st : Byte) (res : BitVec 24) (t : State) : Prop :=
            begun 7 c (imprtWord p pc pb) (w.setWidth 64) k.arg2 st res t
          let named := p.toNat < s.die.dsize.toNat ∧ pb ≠ 0xFFFFF9
          (¬ named → Completes (.imprt c p pc pb w) s fun t => ends 2 0 t ∧ only t) ∧
          (named → (∀ id, ¬ lowest id) → Completes (.imprt c p pc pb w) s fun t => ends 3 0 t ∧ only t) ∧
          ∀ id, named → lowest id →
            let found := (s.buf? pc pb).filter fun _ => (s.ctx pc).valid && (s.ctx pc).dom == 1
            (p = s.die.pkg → found = none → Completes (.imprt c p pc pb w) s fun t => ends 2 0 t ∧ only t) ∧
            (p = s.die.pkg → ∀ f, found = some f → Completes (.imprt c p pc pb w) s fun t =>
              ends 0 id t ∧ bufsKept id t ∧ homesKept s t ∧ t.buf? c id = some { f with
                count := 1, byNew := false, rights := w &&& f.rights &&& ~~~barred pb, inc := BitVec.ofNat 48 x.incs,
                imp := if f.host.isSome then none else some (f.imp.getD (p, pc, pb)) }) ∧
            (p ≠ s.die.pkg → Completes (.imprt c p pc pb w) s fun t => bufsKept id t ∧ homesKept s t ∧
              (ends 2 0 t ∧ t.buf? c id = none ∨ ends 0 id t ∧ ∃ f, t.buf? c id = some f ∧ f.imp = some (p, pc, pb) ∧
                f.rights &&& ~~~w = 0 ∧ f.rights &&& barred pb = 0 ∧ 0 < f.size))) ∧
        ∀ (buf : BufId) (page : Word),
          let has (n : Nat) : Prop := ∃ f, s.buf? c buf = some f ∧ page.toNat < f.pagesAt n
          let fits := ∃ n, n < 8 ∧ has n
          (¬ fits → Completes (.remap c buf page) s fun t => begun 8 c (buf.setWidth 64) page k.arg2 2 0 t ∧ only t) ∧
          (fits → Completes (.remap c buf page) s fun t => begun 8 c (buf.setWidth 64) page k.arg2 0 0 t ∧
            t = { s with frames := s.frames + 1, lofts := t.lofts, yard := { s.yard with cmd := t.yard.cmd } } ∧
            ∀ n,
              let d : Loft := Tab.get {} s.lofts n
              let e : Loft := Tab.get {} t.lofts n
              e = { d with moved := e.moved } ∧ ∀ a, e.moved.find? a =
                if n < 8 ∧ has n ∧ a = pageTag c buf page.toNat then some (s.frames + 1) else d.moved.find? a))) ∧
    (k.busy = false → s.boot.recov = true ∨ s.boot.done = true → ∀ nonce report : Word,
      (Completes (.attest nonce report) s fun t =>
        let r := s.report (Mem.readN s.host nonce.toNat 32)
        let out := r ++ Config.mldsaSign (Config.sha3 r)
        begun 9 0 nonce report k.arg2 0 0 t ∧ t = { s with host := t.host, yard := { s.yard with cmd := t.yard.cmd } } ∧
          Mem.readN t.host report.toNat out.length = out ∧
          ∀ p, ¬ (report.toNat ≤ p ∧ p < report.toNat + out.length) → Mem.read t.host p = Mem.read s.host p) ∧
      (s.boot.recov = false → Completes (.loadfw nonce report) s fun t => begun 10 0 nonce report k.arg2 2 0 t ∧ only t) ∧
      (s.boot.recov = true → Completes (.loadfw nonce report) s fun t =>
        t.boot = { s.boot with done := false, fail := false, recov := false, reason := 0, measure := [],
                               loadfw := some (Mem.readN s.host nonce.toNat report.toNat) } ∧
          t.bays = [] ∧ t.sheds = [] ∧ t.mem = [] ∧ t.lofts = [] ∧ t.yard = {} ∧ t.disc = [] ∧ t.host = s.host ∧ t.die = s.die))

/-- R16, R109, R201, R368, R394, R396, R398, R399, R401, R404 to R409, R412: debug stops and the restart; register writes, in
the command block, the context entries, the debug block, the queues' blocks and between them; requests of the host and of
peers at the home; links; resets; the boot and its failures; the throttle. The model's readings: that the event of a link
that goes down names the packages that no path is left to, and that requests of that cycle are lost, is log 26; which of its
two forms a write of the stop register has is log 28; STATUS 2 of a command that the table does not name is log 55; what the
host last read is a field of the model (log 7); what the recovery table and REASON show, and what the boot measures, are log
5, and what FAIL shows then is log 73; which bytes of the image go into a bay's firmware store is open (log 9); that the
restart of a debug stop lands the vector writes in flight and has mx.ldw read again is log 38. -/
def Obligations.system_events_complete : Prop :=
  (∀ (b : BayNo) (c : CtxNo) (s : State),
    (s.populated b = true → Completes (.debugStopBay b) s fun t =>
      onlyBay b s t ∧ t.bay b = { s.bay b with debugStop := true }) ∧
    (Completes (.debugStopContext c) s fun t => t = { s with bays := t.bays } ∧ ∀ a,
      t.bay a = if (s.bay a).task ≠ none ∧ (s.bay a).ctx = c then { s.bay a with debugStop := true } else s.bay a) ∧
    (s.ok = true → Completes .debugRestart s fun t => t = { s with bays := t.bays, sheds := t.sheds } ∧
      ((∀ a, (s.bay a).debugStop = true → (s.bay a).vx.pend = []) → t.sheds = s.sheds) ∧ ∀ a,
      let y := s.bay a
      let z := t.bay a
      (y.debugStop = false → z = y) ∧
      (y.debugStop = true → z.debugStop = false ∧ z.vx.pend = [] ∧ z.gen = y.gen ∧ z.wf = y.wf ∧
        (∀ q, z.queue q = y.queue q)) ∧
      (y.debugStop = true → y.vx.pend = [] → z = { y with
        debugStop := false, mx := { y.mx with arrays := y.mx.arrays.map fun j => { j with again := true } } }))) ∧
  (∀ (fn q : BitVec 6) (o : Nat) (v : Word) (s : State), o < 0x40 →
    let x := s.sq q
    let i := Instr.registerWrite fn (BitVec.ofNat 17 (0x10000 + 0x40 * q.toNat + o)) v
    let n : BitVec 5 := v.extractLsb' 0 5
    let tail : BitVec 22 := v.extractLsb' 0 22
    let x1 : Sq := if v.getLsbD 11 then { x with
      head := 0, tail := 0, stat := 0, bpn := 0, levels := [{}], skip := 0, loop := none, waiting := false, image := none,
      bpPass := false }
      else x
    (x.func ≠ fn → Completes i s fun t => t = s) ∧
    (x.func = fn →
      (o = 0 → Completes i s (onlySq q (if x.en then x else { x with rbase := v.extractLsb' 12 52 }) s)) ∧
      (o = 0x10 → Completes i s (onlySq q { x with tail := if tail.toNat < 2 ^ x.lsize.toNat then tail else x.tail } s)) ∧
      (o ∉ [0, 8, 0x10] → Completes i s fun t => t = s) ∧
      (o = 8 → v.getLsbD 11 = false → v.getLsbD 10 = false → x.stat ≠ 6 → x.stat ≠ 7 → Completes i s (onlySq q { x with
        lsize := if x.en = false ∧ 10 ≤ n.toNat ∧ n.toNat ≤ 22 then n else x.lsize, urg := v.getLsbD 8, en := v.getLsbD 9,
        halt := false } s)) ∧
      (o = 8 → ∃ u, onlySq q { x1 with
          lsize := if x.en = false ∧ 10 ≤ n.toNat ∧ n.toNat ≤ 22 then n else x.lsize, urg := v.getLsbD 8,
          en := v.getLsbD 9 } s u ∧
        Completes i s fun t => exec (if v.getLsbD 10 then .halt q else .haltClear q) u = .next t))) ∧
  (∀ (fn : BitVec 6) (o : Nat) (v : Word) (s : State),
    let i := Instr.registerWrite fn (BitVec.ofNat 17 o) v
    (o < 0x1000 ∨ 0x4000 ≤ o ∧ o < 0x10000 ∨ 0x11000 ≤ o ∧ o < 0x20000 → Completes i s fun t => t = s) ∧
    (0x1000 ≤ o → o < 0x4000 → fn ≠ 0 → Completes i s fun t => t = s)) ∧
  (∀ (n h : Nat) (v : Word) (s : State),
    let i (o : Nat) := Instr.registerWrite 0 (BitVec.ofNat 17 (0x3000 + o)) v
    let written (o : Nat) (f : Debug → Debug → Prop) : Prop := Completes (i o) s (onlyDebug f s)
    (n < 4 → h < 2 → written (0x10 * n + 8 * h) fun d e => e = { d with pbp := e.pbp } ∧
      fileWritten 4 (fun k => decide (k < 24 ∨ 64 ≤ k ∧ k < 70 ∨ 125 ≤ k)) n h v d.pbp e.pbp) ∧
    (n < 16 → h < 2 → written (0x100 + 0x10 * n + 8 * h) fun d e => e = { d with cbp := e.cbp } ∧
      fileWritten 16 (fun k => decide (k < 32 ∨ 96 ≤ k)) n h v d.cbp e.cbp) ∧
    (n < 8 → h < 4 → written (0x300 + 0x20 * n + 8 * h) fun d e => e = { d with wp := e.wp } ∧
      fileWritten 8 (fun k => decide (k < 48 ∨ 128 ≤ k ∧ k < 176 ∨ 216 ≤ k ∧ k < 246 ∨ 251 ≤ k)) n h v d.wp e.wp) ∧
    (written 0x208 fun d e => e = { d with cutsel := v.extractLsb' 0 8 }) ∧
    (0x40 ≤ n ∧ n < 0x100 ∨ 0x210 ≤ n ∧ n < 0x300 ∨ 0x400 ≤ n ∧ n < 0x1000 → Completes (i n) s fun t => t = s) ∧
    (v.getLsbD 14 = true →
      Completes (i 0x200) s fun t => exec (.debugStopContext (v.extractLsb' 8 6)) s = .next t) ∧
    (v.getLsbD 14 = false → ∃ u, exec .debugRestart s = .next u ∧
      let m : State := if v.getLsbD 9 then u else s
      let b : BayNo := v.extractLsb' 0 8
      (v.getLsbD 8 = true ∧ s.populated b = true → Completes (i 0x200) s fun t =>
        onlyBay b m t ∧ t.bay b = { m.bay b with debugStop := true }) ∧
      (¬ (v.getLsbD 8 = true ∧ s.populated b = true) → Completes (i 0x200) s fun t => t = m))) ∧
  (∀ (o : Nat) (v : Word) (s : State), o < 0x1000 →
    let i := Instr.registerWrite 0 (BitVec.ofNat 17 (0x1000 + o)) v
    let k := s.yard.cmd
    let c : CtxNo := v.extractLsb' 8 6
    let op := v.toNat % 256
    let only (f : Cmd) (t : State) : Prop := t = { s with yard := { s.yard with cmd := f } }
    let as (j : Instr) : Prop := Completes i s fun t => exec j s = .next t
    (k.busy = true → Completes i s fun t => t = s) ∧
    (k.busy = false →
      (o = 0x10 → Completes i s (only { k with arg0 := v })) ∧ (o = 0x18 → Completes i s (only { k with arg1 := v })) ∧
      (o = 0x20 → Completes i s (only { k with arg2 := v })) ∧ (o = 0x28 → Completes i s (only { k with arg3 := v })) ∧
      (o ∉ [0, 0x10, 0x18, 0x20, 0x28] → Completes i s fun t => t = s) ∧
      (o = 0 →
        (op = 1 → as (.create c)) ∧ (op = 2 → as (.destroy c)) ∧ (op = 3 → as (.kill c)) ∧
        (∀ (n : BitVec 4) (r : BitVec 1) (j : BitVec 5),
          k.arg0 = BitVec.ofNat 64 (j.toNat * 32 + r.toNat * 16 + n.toNat) →
          (op = 4 → as (.grant c n r j)) ∧ (op = 5 → as (.revoke c n r j))) ∧
        (∀ w : BitVec 4, op = 6 → k.arg2 = w.setWidth 64 → as (.hostbuf c k.arg0 k.arg1 w)) ∧
        (∀ (w : BitVec 4) (p pc : BitVec 6) (pb : BufId), op = 7 → k.arg1 = w.setWidth 64 →
          k.arg0 = BitVec.ofNat 64 (pb.toNat * 4096 + pc.toNat * 64 + p.toNat) → as (.imprt c p pc pb w)) ∧
        (∀ buf : BufId, op = 8 → k.arg0 = buf.setWidth 64 → as (.remap c buf k.arg1)) ∧
        (op = 9 → as (.attest k.arg0 k.arg1)) ∧ (op = 10 → as (.loadfw k.arg0 k.arg1)) ∧
        (op = 0 ∨ 10 < op →
          (s.boot.recov = false → s.boot.done = true → Completes i s (only { k with
            cmd := BitVec.ofNat 64 (op + 256 * c.toNat), busy := true, code := 0, result := 0, pend := some (2, 0) })) ∧
          (s.boot.recov = true ∨ s.boot.done = false → Completes i s fun t => t = s))))) ∧
  (∀ (fn c : BitVec 6) (o : Nat) (v : Word) (s : State), o < 0x40 →
    let x := s.ctx c
    let i := Instr.registerWrite fn (BitVec.ofNat 17 (0x2000 + 0x40 * c.toNat + o)) v
    let one (f : Ctx) (t : State) : Prop := t = { s with yard := { s.yard with ctxs := t.yard.ctxs } } ∧
      ∀ d, t.ctx d = if d = c then f else s.ctx d
    (fn ≠ 0 → Completes i s fun t => t = s) ∧
    (fn = 0 →
      (o = 0x18 → Completes i s (one { x with evtail := v.extractLsb' 0 32 })) ∧
      (o = 0x30 → Completes i s (one { x with mquota := v.extractLsb' 0 32 })) ∧
      (o = 0 → x.valid = true → Completes i s (one { x with
        pre := v.extractLsb' 62 1, tren := v.extractLsb' 61 1, urgm := v.extractLsb' 17 15 })) ∧
      (o = 0 → x.valid = false → Completes i s (one { x with
        pre := v.extractLsb' 62 1, tren := v.extractLsb' 61 1, urgm := v.extractLsb' 17 15, dom := v.extractLsb' 60 1,
        func := v.extractLsb' 54 6, qslot := v.extractLsb' 0 17 })) ∧
      (o = 8 → x.valid = false → Completes i s (one { x with
        svmib := v.extractLsb' 48 16, trlg := v.extractLsb' 40 8, evlg := v.extractLsb' 32 8, swlimit := v.extractLsb' 0 32 })) ∧
      (o = 0x28 → x.valid = false → Completes i s (one { x with rtkib := v.extractLsb' 48 16, rtvec := v.extractLsb' 2 30 })) ∧
      (o ∈ [8, 0x28] ∧ x.valid = true ∨ o ∈ [0x10, 0x20, 0x38] → Completes i s (one x)))) ∧
  (∀ (c : CtxNo) (p : BitVec 6) (b : BufId) (off : BitVec 48) (s : State),
    let served (n : Nat) := ∃ f, s.buf? c b = some f ∧ f.host = none ∧ f.imp = none ∧ b ≠ 0xFFFFFF ∧ off.toNat + n ≤ f.size
    let base := memKey s.die.pkg.toNat c.toNat b.toNat 0 + off.toNat
    let old := leNat (s.homeBytes c b off.toNat 8)
    let at' (r : MemReq) (P : State → Prop) : Prop := Completes (.hostMemoryRequest c b off r) s P ∧
      (p.toNat < s.die.dsize.toNat → (s.ctx c).dom = 1 → Completes (.peerRequest p c b off r) s P) ∧
      ((s.die.dsize.toNat ≤ p.toNat ∨ (s.ctx c).dom ≠ 1) → Completes (.peerRequest p c b off r) s fun t => t = s)
    let stored (bs : List Byte) (t : State) : Prop := t.homeBytes c b off.toNat bs.length = bs ∧
      ∀ a, ¬ (base ≤ a ∧ a < base + bs.length) → t.mem.find? a = s.mem.find? a
    (∀ n : BitVec 4, served n.toNat → at' (.read n) fun t =>
      t = { s with lofts := t.lofts, hostRead := s.homeBytes c b off.toNat n.toNat }) ∧
    (∀ bs : List Byte, served bs.length → at' (.write bs) fun t =>
      t = { s with lofts := t.lofts, mem := t.mem } ∧ stored bs t) ∧
    (∀ v : Word, served 8 → at' (.add v) fun t => t = { s with lofts := t.lofts, mem := t.mem, hostRead := t.hostRead } ∧
      t.hostRead = leBytes old 8 ∧ stored (leBytes ((old + v.toNat) % 2 ^ 64) 8) t) ∧
    ∀ r, ¬ served (MemReq.bytes r) → at' r fun t => t = s) ∧
  (∀ (n : BitVec 5) (vc : BitVec 2) (cut : BitVec 64) (s : State),
    let l : Link := Tab.get {} s.links n.toNat
    let ok := n.toNat < 24 ∧ l.up = true
    let one (f : Link) (t : State) : Prop := ∀ m, Tab.get {} t.links m = if m = n.toNat then f else Tab.get {} s.links m
    (¬ ok → ∀ i ∈ [Instr.linkReplay n vc, .linkDown n cut], Completes i s fun t => t = s) ∧
    (ok → Completes (.linkReplay n vc) s (fun t => t = { s with links := t.links } ∧ one { l with replays := l.replays + 1 } t) ∧
      Completes (.linkDown n cut) s fun t => one { l with up := false, downs := l.downs + 1 } t ∧
        (t = { s with links := t.links, remote := t.remote, losing := true }) ∧
        (∀ p, p ∈ t.remote ↔ p ∈ s.remote ∨ p ≠ s.die.pkg ∧ cut.getLsbD p.toNat = true) ∧
        ∀ d b, t.unreachable d b = true ↔ ∃ f p pc pb, s.buf? d b = some f ∧ f.imp = some (p, pc, pb) ∧
          (p ∈ s.remote ∨ p ≠ s.die.pkg))) ∧
  (∀ (n : BitVec 4) (up : BitVec 1) (s : State), Completes (.throttle n up) s fun t =>
    t = { s with sheds := t.sheds } ∧ otherSheds n s t ∧ t.shed n = { s.shed n with level := (t.shed n).level } ∧
      (t.shed n).level.toNat = (if up = 1 then (if (s.shed n).level.toNat < 4 then (s.shed n).level.toNat + 1
        else (s.shed n).level.toNat) else (s.shed n).level.toNat - 1)) ∧
  (∀ (fn : BitVec 4) (s : State), s.ok = true →
    (fn = 0 → Completes (.functionLevelReset fn) s fun t => t.die = s.die ∧ t.host = s.host ∧ t.bays = [] ∧ t.sheds = [] ∧
      t.mem = [] ∧ t.lofts = [] ∧ t.yard = {} ∧ t.disc = [] ∧ t.boot = { s.boot with
        done := false, fail := false, recov := false, reason := 0, measure := [], loadfw := none }) ∧
    (fn ≠ 0 → Completes (.functionLevelReset fn) s fun t =>
      (∀ c, (s.ctx c).valid = true → (s.ctx c).func = fn.setWidth 6 →
        (∀ b, (t.bay b).task = none ∨ (t.bay b).ctx ≠ c) ∧ (∀ k, (t.slot k).state = .free ∨ (t.slot k).ctx ≠ c) ∧
          ∀ q, (t.sq q).ctx = c → (t.sq q).en = false) ∧
      ∀ q, t.sq q = if (s.sq q).func = fn.setWidth 6 then { s.sq q with
          head := 0, tail := 0, stat := 0, bpn := 0, levels := [{}], skip := 0, loop := none, waiting := false,
          image := none, bpPass := false, en := (t.sq q).en }
        else { s.sq q with en := (t.sq q).en })) ∧
  ∀ (e : BootEnd) (s : State),
    let b := s.boot
    let image := b.loadfw.getD b.image
    let reason : Byte :=
      if Config.sha3 (leBytes b.pubkey.toNat 32) ≠ b.keyFuse ∨ Config.mldsaVerify b.pubkey (Config.sha3 image) b.sign = false then 1
      else if b.secver.toNat < b.minFuse.toNat then 2
      else match e with | .good => 0 | .ucie => 3 | .hbm => 4 | .chiplet => 5 | .timeout => 6
    let recovers := 3 ≤ b.fails.toNat ∧ b.loadfw = none
    (b.done = true ∨ b.recov = true → Completes (.boot e) s fun t => t = s) ∧
    (b.done = false → b.recov = false →
      (recovers → Completes (.boot e) s fun t => t = { s with
        disc := s.discTable true, boot := { b with recov := true, reason := b.lastReason }, msix := s.msix ++ [(0, 0)] }) ∧
      (¬ recovers → reason = 0 → Completes (.boot e) s fun t => t = { s with
        disc := s.discTable false, msix := s.msix ++ [(0, 0)], freeCtr := t.freeCtr, sheds := t.sheds, bays := t.bays,
        boot := { b with done := true, fail := false, reason := 0, lastReason := 0, fails := 0, loadfw := none,
                         measure := t.boot.measure } } ∧
        t.boot.measure.length = 8 ∧
        t.boot.measure.head? = some (Config.sha3 (leBytes 0 32 ++ leBytes (Config.sha3 image).toNat 32)) ∧
        (∀ n, t.shed n = { s.shed n with key := (t.shed n).key }) ∧
        ∀ n, t.bay n = { s.bay n with firmware := (t.bay n).firmware } ∧
          (s.populated n = false → t.bay n = s.bay n) ∧
          (s.populated n = true → ∀ a, a < Config.firmwareBytes →
            Mem.read (t.bay n).firmware a = Config.firmwareByte image n.toNat a)) ∧
      (¬ recovers → reason ≠ 0 → Completes (.boot e) s fun t => t = { s with
        boot := { b with fail := true, reason := reason, lastReason := reason, loadfw := none, fails := t.boot.fails,
                         measure := t.boot.measure } } ∧
        (reason.toNat < 3 → t.boot.measure = b.measure) ∧
        (3 ≤ reason.toNat → t.boot.measure = [Config.sha3 (leBytes 0 32 ++ leBytes (Config.sha3 image).toNat 32)]) ∧
        t.boot.fails.toNat = min 15 (b.fails.toNat + 1)))

/-! ### The whole machine -/

/-- R37, R39, R45 to R47, R50 to R60, R62: words of the spec's own examples, one or more of each family, decode to the
instructions that they stand for. -/
def Obligations.words_decode : Prop :=
  (∀ e ∈ [(0x000F800B#32, Instr.emit 31), (0x040F850B#32, .emitnb 10 31), (0x06B5000B#32, .emits 10 11),
      (0x0050207B#32, .bbc 5), (0x0075307B#32, .trmark 10 7), (0x3105A52B#32, .lwC 10 11 16 3), (0x30A5A85B#32, .swC 10 11 16 3),
      (0x000A417B#32, .fenceCm 5 2), (0x2C8592FB#32, .bfins 5 11 8 11), (0x632002B7#32, .integerAlu (.lui 5 0x63200)),
      (0x00C5A50B#32, .talloc 10 11 12), (0x0AC5A50B#32, .btst 10 11 12), (0x06C5F50B#32, .amoPkmin 1 1 10 11 12),
      (0x0AC5C50B#32, .ringGet 10 11 12), (0x04B5400B#32, .barWait 10 11), (0x0005D50B#32, .taskSpawn 10 11),
      (0x0205600B#32, .bayFlush 10), (0x00000073#32, .ecall), (0x10500073#32, .wfi)], decodeGen e.1 = .ok e.2) ∧
  (∀ e ∈ [(0x02400003#32, ([] : List W32), Instr.syArrive 8 3), (0x03100045#32, [], .syWait 2 69),
      (0x05208004#32, [], .syFence 4 1 4), (0x01101234#32, [], .syNotify 2 0x1234),
      (0x201E3E00#32, [], .mxCfg 15 15 1 0 0), (0x26800000#32, [], .mxZero 1), (0x25000006#32, [], .mxInit 0 6),
      (0x24004304#32, [0xC6000000#32], .mxLdw 1 0 0 1 3 4),
      (0x402312C0#32, [], .vxAdd { s := 2, d := 3, a := 1, b := 2, t := 12, r := 0, m := 0 }),
      (0x4D060FC0#32, [0xCB800000#32], .vxSet 0 6 0x3F800000 12 0 0),
      (0x5C010300#32, [0xC8000401#32, 0xC8040400#32], .vxSlot 0 1 3 1025 1 1024),
      (0x63201105#32, [], .cpIn 2 17 5), (0x8410150C#32, [], .cpOut 1 21 12), (0x8B200200#32, [], .cpDrain 2 2),
      (0xA0001314#32, [], .kxIld 19 20), (0xB2281F1E#32, [], .kxUniq 1 1 31 30)], decodeWord e.1 e.2.1 = .ok e.2.2) ∧
  decodePacket 0x10000300#32 [] = .ok (.loop 3 0) ∧
  decodePacket 0x04040001#32 [0x40#32, 0x500#32, 7#32, 0#32] = .ok (.launch 1 { buf := 5, off := 0x40 } 7)

/-- R37, R38, R45 to R47, R50 to R63: every well-formed generator instruction, engine word and packet has an encoding, and
decoding what the encoder gives for it, a word with its prefixes or a packet's dwords, gives it back, with every operand. -/
def Obligations.decode_encode : Prop :=
  (∀ (i : Instr) (w : W32), i.wf = true → encodeGen i = some w → decodeGen w = .ok i) ∧
  (∀ (i : Instr) (w : W32) (ps : List W32), i.wf = true → encodeWord i = some (w, ps) → decodeWord w ps = .ok i) ∧
  (∀ (i : Instr) (h : W32) (ds : List W32), i.wf = true → encodePacket i = some (h, ds) → decodePacket h ds = .ok i) ∧
  ∀ i : Instr, i.wf = true → (carrier i = .generator → ∃ w, encodeGen i = some w) ∧
    (carrier i = .engine → ∃ w, encodeWord i = some w) ∧ (carrier i = .packet → ∃ w, encodePacket i = some w)

/-- R43, R55, R64, R110, R113, R144, R203, R361, R370, R377, R390, R393, R399: a step is the next action's: a generator whose
boundary nothing holds executes the instruction that its pc fetches, an unassigned encoding as an illegal instruction; at the
boundary a pending interrupt of a word fault comes before that of a hang, and either before the instruction; a fetch outside
the code is an access fault; a stopped or parked generator stays. A queue's head is judged as its word decodes, after the
lower queues of its cycle (R151), and a queue that drains to its notify records it; the packet at a queue's position is
executed as it decodes; an event is executed. What the actions are is the model's account of who moves next (log 2); that the
word behind a wide fence sees the shed's clean bytes anew is log 69, how a cycle judges the queues is log 70, the kill of a
fault in M mode is log 67, that a fetch from code out of reach is an access fault is log 56, and that a code breakpoint which
is not yet cleared hits at each turn again is log 57. -/
def Obligations.step_runs_decoded : Prop :=
  (∀ (b : BayNo) (rest : List Action) (s : State), s.overfull = none → s.agenda = .gen b :: rest →
    let u := { s with agenda := rest }
    let y := s.bay b
    let off := y.gen.pc.toNat % 2 ^ 32
    let f := u.fetchWord b off
    let held := y.task = none ∨ y.debugStop = true ∨ y.saving = true ∨ ∃ i a, y.gen.wait = some (.yard i a)
    let takes (n : Nat) : Prop := y.mip.getLsbD n = true ∧ (y.gen.csrRd 0x304).getLsbD n = true ∧
      if (y.gen.csrRd 0x303).getLsbD n then y.gen.mode = 0 ∨ (y.gen.mode = 1 ∧ (y.gen.csrRd 0x300).getLsbD 1 = true)
      else y.gen.mode ≠ 3 ∨ (y.gen.csrRd 0x300).getLsbD 3 = true
    let code := y.gen.pc.toNat / 2 ^ 32 = 63 * 2 ^ 26 ∧ off % 4 = 0 ∧
      off < (if y.gen.mode = 0 then y.csize else if y.gen.mode = 1 then s.bufSize y.ctx 0xFFFFF9 else Config.firmwareBytes)
    let lost := ∃ bf, y.pcBuf = some bf ∧ s.unreachable y.ctx bf = true
    let genIs (P : Gen → Prop) (t : State) : Prop :=
      onlyBay b u t ∧ t.bay b = { y with gen := (t.bay b).gen } ∧ P (t.bay b).gen
    (∀ k, y.gen.mfault = true → y.task = some k → step s = exec (.contextKill y.ctx 6 k b) u) ∧
    (y.gen.mfault = false → held → step s = .next u) ∧
    (y.gen.mfault = false → ¬ held →
      (takes 16 → ∃ t, step s = .next t ∧ genIs (interruptEntered 16 y.gen) t) ∧
      (¬ takes 16 → takes 17 → ∃ t, step s = .next t ∧ genIs (interruptEntered 17 y.gen) t) ∧
      (¬ takes 16 → ¬ takes 17 →
        (y.gen.parked = true → step s = .next u) ∧
        (y.gen.parked = false →
          (s.codeBreak y = some true → ∃ t, step s = .next t ∧ onlyBay b u t ∧ t.bay b = { y with debugStop := true }) ∧
          (s.codeBreak y = some false → ∃ t, step s = .next t ∧ genIs (trapEntered 3 y.gen.pc y.gen) t) ∧
          (s.codeBreak y = none → ¬ code ∨ lost → ∃ t, step s = .next t ∧ genIs (trapEntered 1 y.gen.pc y.gen) t) ∧
          (s.codeBreak y = none → code → ¬ lost →
            (∀ i, decodeGen f.1 = .ok i → step s = exec i { f.2 with cur := b }) ∧
            (∀ e, decodeGen f.1 = .error e → step s = exec (.illegalInstruction f.1) { f.2 with cur := b }) ∧
            otherBays b s f.2 ∧ f.2.bay b = { y with icache := (f.2.bay b).icache } ∧ f.2.yard = s.yard ∧ homesKept s f.2 ∧
            ∀ l, y.icache.find? (y.fetchKey off) = some l →
              f.2 = u ∧ f.1 = BitVec.ofNat 32 (leNat ((l.drop (y.gen.pc.toNat % 64)).take 4))))))) ∧
  (∀ (b : BayNo) (q : QId) (rest : List Action) (e : Entry) (s : State), s.overfull = none → s.agenda = .issue b q :: rest →
    q.toNat ≤ 4 → (q = 1 → (s.bay b).vx.stopped = none) → (s.bay b).head? q.toNat = some e →
    let y := s.bay b
    let since := if y.judged ≤ q.toNat then y.judged else 0
    let stands (p : Nat) : Prop := y.head? p ≠ none ∨ (p = 1 ∧ y.vx.stopped ≠ none)
    let ahead := y.forked < e.fork
    let sh := shedOf b
    let u := { ({ s with agenda := rest } : State).judge b q.toNat with cur := b, curQ := q }
    (∀ p : QId, p.toNat < q.toNat → since ≤ p.toNat → stands p.toNat →
      (∀ r, since ≤ r → r < p.toNat → ¬ stands r) → step s = step { s with agenda := .issue b p :: s.agenda }) ∧
    ((∀ p, since ≤ p → p < q.toNat → ¬ stands p) →
      u = { s with agenda := rest, cur := b, curQ := q, sheds := u.sheds, bays := u.bays } ∧ otherBays b s u ∧
      otherSheds sh s u ∧ u.bay b = { y with
        judged := q.toNat + 1, forked := if ahead then y.forks else y.forked,
        wf := { y.wf with fresh := y.wf.fresh && decide (y.judged ≤ q.toNat) } } ∧
      (¬ ahead → u.sheds = s.sheds) ∧ (ahead → ∀ l ∈ (u.shed sh).cache, l.2.mask = 0 ∨ l.2.dirty ≠ 0) ∧
      (∀ h, e.kind = .marker h → step s = exec (.markerPass b q) u) ∧
      (e.kind = .notify →
        let done := y.task ≠ none ∧ y.wf.valid = false ∧ y.debugStop = false ∧ y.saving = false ∧ y.idle q.toNat = true
        ∃ t, step s = .next t ∧ t = { u with cur := s.cur, curQ := s.curQ, bays := t.bays } ∧ otherBays b u t ∧
          onlyQueues (u.bay b) (t.bay b) ∧ (t.bay b).hangCount = y.hangCount ∧ ∀ p, p < 5 → (t.bay b).queue p =
            if p = q.toNat ∧ done then { y.queue p with ntok := 0x7FFFF, noff := e.off, neseq := e.eseq }
            else y.queue p) ∧
      (e.kind = .word →
        (∀ i, decodeWord e.w e.pfx = .ok i → step s = exec i u) ∧
        (∀ x, decodeWord e.w e.pfx = .error x → atHead q.toNat e u → ∃ t, step s = .next t ∧
          wordFaults q.toNat e (y.queue q.toNat).issued 1 0 .nothing (u.bay b) (t.bay b))))) ∧
  (∀ (q : BitVec 6) (rest : List Action) (l : Level) (i : Instr) (s : State), s.overfull = none →
    s.agenda = .packet q :: rest →
    let x := s.sq q
    let h := s.levelDword x 0
    let n := (h.extractLsb' 16 10).toNat
    let ds := (List.range n).map fun k => s.levelDword x (k + 1)
    x.levels = [l] → l.buf = none → l.win = [] → x.en = true → x.stat = 0 → x.halt = false → x.skip = 0 →
    x.loop = none → n + 1 ≤ x.left → headerOk h = true → decodePacket h ds = .ok i → s.yard.dbg.pbp = [] →
    ∃ u : State, step s = exec i u ∧ u.curSq = q ∧ u = { s with agenda := rest, curSq := q, yard := u.yard } ∧
      onlySq q (u.sq q) s { s with yard := u.yard } ∧
      ∃ ws, u.sq q = { x with waiting := true, levels := [{ l with win := h :: ds ++ ws }] }) ∧
  (∀ (i : Instr) (rest : List Action) (s : State), s.overfull = none → s.agenda = .event i :: rest →
    step s = exec i { s with agenda := rest }) ∧
  ∀ s : State, s.overfull = none → s.agenda = [] → s.boot.done = false → s.boot.recov = false →
    step s = exec (.boot .good) s

/-- R112, R249, R270, R303, R368, R394, R408: what package reset leaves, as the rules give it; and the state after it is
sound. The rules give no reset value for the tile table, the queues, the vector slots, ESEQ and the pending prefixes, and
R112's Reset column is what dispatch gives: that these too are empty or zero after package reset is the model's choice
(log 1). -/
def Obligations.reset_values : Prop :=
  State.reset.ok = true ∧ State.reset.mem = [] ∧ State.reset.boot.done = false ∧
    (∀ c, (State.reset.ctx c).valid = false ∧ (State.reset.ctx c).evlg = 6 ∧ (State.reset.ctx c).swlimit = 0x400 ∧
      (State.reset.ctx c).mquota = 0) ∧
    (∀ q, (State.reset.sq q).lsize = 10 ∧ (State.reset.sq q).en = false ∧ (State.reset.sq q).stat = 0 ∧
      (State.reset.sq q).head = 0 ∧ (State.reset.sq q).tail = 0) ∧
    (∀ k, (State.reset.slot k).state = .free) ∧
    ∀ b, let y := State.reset.bay b
      y.task = none ∧ y.gen.zclass = 0 ∧ y.gen.zrelmask = 0x7FFF ∧ y.gen.srseed = 0 ∧ y.gen.srstep = 0 ∧
        y.gen.hlimit = 0x00100000 ∧ y.gen.bbcEn = 0 ∧ y.wf.valid = false ∧ y.eseq = 0 ∧ y.pend = [] ∧ y.tiles = [] ∧
        y.mx.cfg.m1 = 127 ∧ y.mx.cfg.n1 = 127 ∧ y.mx.cfg.afmt = 0 ∧ y.vx.chk = 0 ∧ y.vx.slots = [] ∧
        ∀ q, y.queue q = {}

/-- R37, R108, R200, R347: whatever the next step is, a sound state stays sound: every memory in canonical form, every cache
line whole, every generator in a mode of U, S and M with a legal MPP, every bay and slot listed once, and the package stays
what it is. No step refuses, and one faults only where its action names a bay that no chiplet populates, which is the
model's choice (log 61). -/
def Obligations.step_keeps_ok : Prop :=
  ∀ s : State, s.ok = true →
    match step s with
    | .next t => t.ok = true ∧ t.die = s.die
    | .fault f => f = .absentBay ∧ ∃ b, s.nextAction.1.bay? = some b ∧ s.populated b = false
    | .refused _ => False
end

