-- ==== Sys2Proof/Laws/Tab.lean ====
section
/-! SUPPORT. Sparse tables and memories: a read after a write, and that every operation keeps the canonical form. -/
namespace Sys2Proof.Machine

namespace Tab
variable {α : Type}

theorem find?_put (m : Tab α) (k j : Nat) (v : α) :
    find? (put m k v) j = if j = k then some v else find? m j := by
  induction m with
  | nil => simp [put, find?]
  | cons e t ih =>
    obtain ⟨i, w⟩ := e
    simp only [put]
    split
    · simp [find?]
    · split
      · subst_vars; simp only [find?]; split <;> simp_all
      · simp only [find?, ih]; split <;> split <;> simp_all

@[simp] theorem get_put_same (d : α) (m : Tab α) (k : Nat) (v : α) : get d (put m k v) k = v := by
  simp [get, find?_put]

theorem get_put (d : α) (m : Tab α) (k j : Nat) (v : α) : get d (put m k v) j = if j = k then v else get d m j := by
  simp only [get, find?_put]; split <;> simp_all

theorem find?_erase (m : Tab α) (k j : Nat) : find? (erase m k) j = if j = k then none else find? m j := by
  induction m with
  | nil => simp [erase, find?]
  | cons e t ih =>
    obtain ⟨i, w⟩ := e
    simp only [erase, List.filter_cons] at ih ⊢
    by_cases h : i = k
    · subst h; simp only [bne_self_eq_false, Bool.false_eq_true, if_false, ih, find?]; split <;> simp_all
    · simp only [bne_iff_ne, ne_eq, h, not_false_eq_true, if_true, find?, ih]
      by_cases hj : j = i <;> simp_all

theorem risesFrom_mono {lo lo' : Nat} (h : lo' ≤ lo) {m : Tab α} (hm : risesFrom lo m = true) :
    risesFrom lo' m = true := by
  cases m with
  | nil => rfl
  | cons e t => simp only [risesFrom, Bool.and_eq_true, decide_eq_true_eq] at hm ⊢; exact ⟨by omega, hm.2⟩

theorem risesFrom_put {lo k : Nat} (hk : lo ≤ k) (v : α) {m : Tab α} (hm : risesFrom lo m = true) :
    risesFrom lo (put m k v) = true := by
  induction m generalizing lo with
  | nil => simpa [put, risesFrom] using hk
  | cons e t ih =>
    obtain ⟨i, w⟩ := e
    simp only [risesFrom, Bool.and_eq_true, decide_eq_true_eq] at hm
    simp only [put]
    split
    · simp only [risesFrom, Bool.and_eq_true, decide_eq_true_eq]; exact ⟨hk, by omega, hm.2⟩
    · split
      · subst_vars; simp only [risesFrom, Bool.and_eq_true, decide_eq_true_eq]; exact hm
      · simp only [risesFrom, Bool.and_eq_true, decide_eq_true_eq]; exact ⟨hm.1, ih (by omega) hm.2⟩

theorem risesFrom_filter {lo : Nat} (p : Nat × α → Bool) {m : Tab α} (hm : risesFrom lo m = true) :
    risesFrom lo (m.filter p) = true := by
  induction m generalizing lo with
  | nil => rfl
  | cons e t ih =>
    simp only [risesFrom, Bool.and_eq_true, decide_eq_true_eq] at hm
    rw [List.filter_cons]
    split
    · simp only [risesFrom, Bool.and_eq_true, decide_eq_true_eq]; exact ⟨hm.1, ih hm.2⟩
    · exact ih (risesFrom_mono (by omega) hm.2)

theorem mem_put {m : Tab α} {k : Nat} {v : α} {e : Nat × α} (h : e ∈ put m k v) : e = (k, v) ∨ e ∈ m := by
  induction m with
  | nil => simpa [put] using h
  | cons a t ih =>
    obtain ⟨i, w⟩ := a
    simp only [put] at h
    split at h
    · simpa using h
    · split at h
      · rcases List.mem_cons.1 h with h | h <;> simp [h]
      · rcases List.mem_cons.1 h with h | h
        · simp [h]
        · rcases ih h with h | h <;> simp [h]

end Tab

namespace Mem

theorem read_write (m : Mem) (a b : Nat) (v : Byte) : read (write m a v) b = if b = a then v else read m b := by
  unfold write read
  split
  · simp only [Tab.get, Tab.find?_erase]; split <;> simp_all
  · simp [Tab.get_put]

/-- A write keeps the canonical form. -/
theorem wf_write {m : Mem} (h : m.wf = true) (a : Nat) (v : Byte) : (m.write a v).wf = true := by
  simp only [wf, Bool.and_eq_true, List.all_eq_true, bne_iff_ne, ne_eq] at h ⊢
  unfold write
  split
  · exact ⟨Tab.risesFrom_filter _ h.1, fun e he => h.2 e (List.mem_filter.1 he).1⟩
  · refine ⟨Tab.risesFrom_put (Nat.zero_le _) v h.1, fun e he => ?_⟩
    rcases Tab.mem_put he with rfl | he
    · assumption
    · exact h.2 e he

/-- So does a write of many bytes. -/
theorem wf_writeN (bs : List Byte) : ∀ {m : Mem} (_ : m.wf = true) (a : Nat), (m.writeN a bs).wf = true := by
  induction bs with
  | nil => intro m h _; exact h
  | cons b t ih => intro m h a; exact ih (wf_write h a b) (a + 1)

/-- So does removing a range. -/
theorem wf_clear {m : Mem} (h : m.wf = true) (p : Nat → Bool) : (m.clear p).wf = true := by
  simp only [wf, Bool.and_eq_true, List.all_eq_true] at h ⊢
  exact ⟨Tab.risesFrom_filter _ h.1, fun e he => h.2 e (List.mem_filter.1 he).1⟩

/-- A byte after a write of many. -/
theorem read_writeN (bs : List Byte) : ∀ (m : Mem) (a b : Nat),
    read (writeN m a bs) b = if a ≤ b ∧ b < a + bs.length then bs.getD (b - a) 0 else read m b := by
  induction bs with
  | nil => intro m a b; simp [writeN]
  | cons v t ih =>
    intro m a b
    simp only [writeN, ih, read_write, List.length_cons]
    by_cases h : b = a
    · subst h; simp
    · by_cases h2 : a + 1 ≤ b ∧ b < a + 1 + t.length
      · rw [if_pos h2, if_pos (by omega)]
        obtain ⟨k, hk⟩ : ∃ k, b - a = k + 1 := ⟨b - a - 1, by omega⟩
        rw [hk, List.getD_cons_succ]; congr 1; omega
      · rw [if_neg h2, if_neg h, if_neg (by omega)]

end Mem

end Sys2Proof.Machine
end

