-- ==== Sys2Proof/Laws/State.lean ====
section
/-! SUPPORT. What each update of the state leaves in each field, and what reading a bay, a shed, a queue or a register
after an update gives. -/
namespace Sys2Proof.Machine

/-! ### Fields of State after the updates of Machine/Ops.lean -/

@[simp] theorem State.setBay_agenda (s : State) (b : BayNo) (v : Bay) : (s.setBay b v).agenda = s.agenda := rfl
@[simp] theorem State.setBay_cur (s : State) (b : BayNo) (v : Bay) : (s.setBay b v).cur = s.cur := rfl
@[simp] theorem State.setBay_curQ (s : State) (b : BayNo) (v : Bay) : (s.setBay b v).curQ = s.curQ := rfl
@[simp] theorem State.setBay_curSq (s : State) (b : BayNo) (v : Bay) : (s.setBay b v).curSq = s.curSq := rfl
@[simp] theorem State.setBay_now (s : State) (b : BayNo) (v : Bay) : (s.setBay b v).now = s.now := rfl
@[simp] theorem State.setBay_freeCtr (s : State) (b : BayNo) (v : Bay) : (s.setBay b v).freeCtr = s.freeCtr := rfl
@[simp] theorem State.setBay_die (s : State) (b : BayNo) (v : Bay) : (s.setBay b v).die = s.die := rfl
@[simp] theorem State.setBay_boot (s : State) (b : BayNo) (v : Bay) : (s.setBay b v).boot = s.boot := rfl
@[simp] theorem State.setBay_disc (s : State) (b : BayNo) (v : Bay) : (s.setBay b v).disc = s.disc := rfl
@[simp] theorem State.setBay_mem (s : State) (b : BayNo) (v : Bay) : (s.setBay b v).mem = s.mem := rfl
@[simp] theorem State.setBay_host (s : State) (b : BayNo) (v : Bay) : (s.setBay b v).host = s.host := rfl
@[simp] theorem State.setBay_sheds (s : State) (b : BayNo) (v : Bay) : (s.setBay b v).sheds = s.sheds := rfl
@[simp] theorem State.setBay_yard (s : State) (b : BayNo) (v : Bay) : (s.setBay b v).yard = s.yard := rfl
@[simp] theorem State.setBay_msix (s : State) (b : BayNo) (v : Bay) : (s.setBay b v).msix = s.msix := rfl
@[simp] theorem State.setBay_hostRead (s : State) (b : BayNo) (v : Bay) : (s.setBay b v).hostRead = s.hostRead := rfl
@[simp] theorem State.setBay_reds (s : State) (b : BayNo) (v : Bay) : (s.setBay b v).reds = s.reds := rfl
@[simp] theorem State.setBay_hists (s : State) (b : BayNo) (v : Bay) : (s.setBay b v).hists = s.hists := rfl
@[simp] theorem State.setBay_sides (s : State) (b : BayNo) (v : Bay) : (s.setBay b v).sides = s.sides := rfl
@[simp] theorem State.setBay_links (s : State) (b : BayNo) (v : Bay) : (s.setBay b v).links = s.links := rfl
@[simp] theorem State.setBay_remote (s : State) (b : BayNo) (v : Bay) : (s.setBay b v).remote = s.remote := rfl
@[simp] theorem State.setBay_losing (s : State) (b : BayNo) (v : Bay) : (s.setBay b v).losing = s.losing := rfl
@[simp] theorem State.setBay_lofts (s : State) (b : BayNo) (v : Bay) : (s.setBay b v).lofts = s.lofts := rfl
@[simp] theorem State.setBay_frames (s : State) (b : BayNo) (v : Bay) : (s.setBay b v).frames = s.frames := rfl

@[simp] theorem State.modBay_agenda (s : State) (b : BayNo) (f : Bay → Bay) : (s.modBay b f).agenda = s.agenda := rfl
@[simp] theorem State.modBay_cur (s : State) (b : BayNo) (f : Bay → Bay) : (s.modBay b f).cur = s.cur := rfl
@[simp] theorem State.modBay_curQ (s : State) (b : BayNo) (f : Bay → Bay) : (s.modBay b f).curQ = s.curQ := rfl
@[simp] theorem State.modBay_curSq (s : State) (b : BayNo) (f : Bay → Bay) : (s.modBay b f).curSq = s.curSq := rfl
@[simp] theorem State.modBay_now (s : State) (b : BayNo) (f : Bay → Bay) : (s.modBay b f).now = s.now := rfl
@[simp] theorem State.modBay_freeCtr (s : State) (b : BayNo) (f : Bay → Bay) : (s.modBay b f).freeCtr = s.freeCtr := rfl
@[simp] theorem State.modBay_die (s : State) (b : BayNo) (f : Bay → Bay) : (s.modBay b f).die = s.die := rfl
@[simp] theorem State.modBay_boot (s : State) (b : BayNo) (f : Bay → Bay) : (s.modBay b f).boot = s.boot := rfl
@[simp] theorem State.modBay_disc (s : State) (b : BayNo) (f : Bay → Bay) : (s.modBay b f).disc = s.disc := rfl
@[simp] theorem State.modBay_mem (s : State) (b : BayNo) (f : Bay → Bay) : (s.modBay b f).mem = s.mem := rfl
@[simp] theorem State.modBay_host (s : State) (b : BayNo) (f : Bay → Bay) : (s.modBay b f).host = s.host := rfl
@[simp] theorem State.modBay_sheds (s : State) (b : BayNo) (f : Bay → Bay) : (s.modBay b f).sheds = s.sheds := rfl
@[simp] theorem State.modBay_yard (s : State) (b : BayNo) (f : Bay → Bay) : (s.modBay b f).yard = s.yard := rfl
@[simp] theorem State.modBay_msix (s : State) (b : BayNo) (f : Bay → Bay) : (s.modBay b f).msix = s.msix := rfl
@[simp] theorem State.modBay_hostRead (s : State) (b : BayNo) (f : Bay → Bay) : (s.modBay b f).hostRead = s.hostRead := rfl
@[simp] theorem State.modBay_reds (s : State) (b : BayNo) (f : Bay → Bay) : (s.modBay b f).reds = s.reds := rfl
@[simp] theorem State.modBay_hists (s : State) (b : BayNo) (f : Bay → Bay) : (s.modBay b f).hists = s.hists := rfl
@[simp] theorem State.modBay_sides (s : State) (b : BayNo) (f : Bay → Bay) : (s.modBay b f).sides = s.sides := rfl
@[simp] theorem State.modBay_links (s : State) (b : BayNo) (f : Bay → Bay) : (s.modBay b f).links = s.links := rfl
@[simp] theorem State.modBay_remote (s : State) (b : BayNo) (f : Bay → Bay) : (s.modBay b f).remote = s.remote := rfl
@[simp] theorem State.modBay_losing (s : State) (b : BayNo) (f : Bay → Bay) : (s.modBay b f).losing = s.losing := rfl
@[simp] theorem State.modBay_lofts (s : State) (b : BayNo) (f : Bay → Bay) : (s.modBay b f).lofts = s.lofts := rfl
@[simp] theorem State.modBay_frames (s : State) (b : BayNo) (f : Bay → Bay) : (s.modBay b f).frames = s.frames := rfl

@[simp] theorem State.setShed_agenda (s : State) (n : BitVec 4) (v : Shed) : (s.setShed n v).agenda = s.agenda := rfl
@[simp] theorem State.setShed_cur (s : State) (n : BitVec 4) (v : Shed) : (s.setShed n v).cur = s.cur := rfl
@[simp] theorem State.setShed_curQ (s : State) (n : BitVec 4) (v : Shed) : (s.setShed n v).curQ = s.curQ := rfl
@[simp] theorem State.setShed_curSq (s : State) (n : BitVec 4) (v : Shed) : (s.setShed n v).curSq = s.curSq := rfl
@[simp] theorem State.setShed_now (s : State) (n : BitVec 4) (v : Shed) : (s.setShed n v).now = s.now := rfl
@[simp] theorem State.setShed_freeCtr (s : State) (n : BitVec 4) (v : Shed) : (s.setShed n v).freeCtr = s.freeCtr := rfl
@[simp] theorem State.setShed_die (s : State) (n : BitVec 4) (v : Shed) : (s.setShed n v).die = s.die := rfl
@[simp] theorem State.setShed_boot (s : State) (n : BitVec 4) (v : Shed) : (s.setShed n v).boot = s.boot := rfl
@[simp] theorem State.setShed_disc (s : State) (n : BitVec 4) (v : Shed) : (s.setShed n v).disc = s.disc := rfl
@[simp] theorem State.setShed_mem (s : State) (n : BitVec 4) (v : Shed) : (s.setShed n v).mem = s.mem := rfl
@[simp] theorem State.setShed_host (s : State) (n : BitVec 4) (v : Shed) : (s.setShed n v).host = s.host := rfl
@[simp] theorem State.setShed_bays (s : State) (n : BitVec 4) (v : Shed) : (s.setShed n v).bays = s.bays := rfl
@[simp] theorem State.setShed_yard (s : State) (n : BitVec 4) (v : Shed) : (s.setShed n v).yard = s.yard := rfl
@[simp] theorem State.setShed_msix (s : State) (n : BitVec 4) (v : Shed) : (s.setShed n v).msix = s.msix := rfl
@[simp] theorem State.setShed_hostRead (s : State) (n : BitVec 4) (v : Shed) : (s.setShed n v).hostRead = s.hostRead := rfl
@[simp] theorem State.setShed_reds (s : State) (n : BitVec 4) (v : Shed) : (s.setShed n v).reds = s.reds := rfl
@[simp] theorem State.setShed_hists (s : State) (n : BitVec 4) (v : Shed) : (s.setShed n v).hists = s.hists := rfl
@[simp] theorem State.setShed_sides (s : State) (n : BitVec 4) (v : Shed) : (s.setShed n v).sides = s.sides := rfl
@[simp] theorem State.setShed_links (s : State) (n : BitVec 4) (v : Shed) : (s.setShed n v).links = s.links := rfl
@[simp] theorem State.setShed_remote (s : State) (n : BitVec 4) (v : Shed) : (s.setShed n v).remote = s.remote := rfl
@[simp] theorem State.setShed_losing (s : State) (n : BitVec 4) (v : Shed) : (s.setShed n v).losing = s.losing := rfl
@[simp] theorem State.setShed_lofts (s : State) (n : BitVec 4) (v : Shed) : (s.setShed n v).lofts = s.lofts := rfl
@[simp] theorem State.setShed_frames (s : State) (n : BitVec 4) (v : Shed) : (s.setShed n v).frames = s.frames := rfl

@[simp] theorem State.modShed_agenda (s : State) (n : BitVec 4) (f : Shed → Shed) : (s.modShed n f).agenda = s.agenda := rfl
@[simp] theorem State.modShed_cur (s : State) (n : BitVec 4) (f : Shed → Shed) : (s.modShed n f).cur = s.cur := rfl
@[simp] theorem State.modShed_curQ (s : State) (n : BitVec 4) (f : Shed → Shed) : (s.modShed n f).curQ = s.curQ := rfl
@[simp] theorem State.modShed_curSq (s : State) (n : BitVec 4) (f : Shed → Shed) : (s.modShed n f).curSq = s.curSq := rfl
@[simp] theorem State.modShed_now (s : State) (n : BitVec 4) (f : Shed → Shed) : (s.modShed n f).now = s.now := rfl
@[simp] theorem State.modShed_freeCtr (s : State) (n : BitVec 4) (f : Shed → Shed) : (s.modShed n f).freeCtr = s.freeCtr := rfl
@[simp] theorem State.modShed_die (s : State) (n : BitVec 4) (f : Shed → Shed) : (s.modShed n f).die = s.die := rfl
@[simp] theorem State.modShed_boot (s : State) (n : BitVec 4) (f : Shed → Shed) : (s.modShed n f).boot = s.boot := rfl
@[simp] theorem State.modShed_disc (s : State) (n : BitVec 4) (f : Shed → Shed) : (s.modShed n f).disc = s.disc := rfl
@[simp] theorem State.modShed_mem (s : State) (n : BitVec 4) (f : Shed → Shed) : (s.modShed n f).mem = s.mem := rfl
@[simp] theorem State.modShed_host (s : State) (n : BitVec 4) (f : Shed → Shed) : (s.modShed n f).host = s.host := rfl
@[simp] theorem State.modShed_bays (s : State) (n : BitVec 4) (f : Shed → Shed) : (s.modShed n f).bays = s.bays := rfl
@[simp] theorem State.modShed_yard (s : State) (n : BitVec 4) (f : Shed → Shed) : (s.modShed n f).yard = s.yard := rfl
@[simp] theorem State.modShed_msix (s : State) (n : BitVec 4) (f : Shed → Shed) : (s.modShed n f).msix = s.msix := rfl
@[simp] theorem State.modShed_hostRead (s : State) (n : BitVec 4) (f : Shed → Shed) : (s.modShed n f).hostRead = s.hostRead := rfl
@[simp] theorem State.modShed_reds (s : State) (n : BitVec 4) (f : Shed → Shed) : (s.modShed n f).reds = s.reds := rfl
@[simp] theorem State.modShed_hists (s : State) (n : BitVec 4) (f : Shed → Shed) : (s.modShed n f).hists = s.hists := rfl
@[simp] theorem State.modShed_sides (s : State) (n : BitVec 4) (f : Shed → Shed) : (s.modShed n f).sides = s.sides := rfl
@[simp] theorem State.modShed_links (s : State) (n : BitVec 4) (f : Shed → Shed) : (s.modShed n f).links = s.links := rfl
@[simp] theorem State.modShed_remote (s : State) (n : BitVec 4) (f : Shed → Shed) : (s.modShed n f).remote = s.remote := rfl
@[simp] theorem State.modShed_losing (s : State) (n : BitVec 4) (f : Shed → Shed) : (s.modShed n f).losing = s.losing := rfl
@[simp] theorem State.modShed_lofts (s : State) (n : BitVec 4) (f : Shed → Shed) : (s.modShed n f).lofts = s.lofts := rfl
@[simp] theorem State.modShed_frames (s : State) (n : BitVec 4) (f : Shed → Shed) : (s.modShed n f).frames = s.frames := rfl

@[simp] theorem State.modYard_agenda (s : State) (f : Yard → Yard) : (s.modYard f).agenda = s.agenda := rfl
@[simp] theorem State.modYard_cur (s : State) (f : Yard → Yard) : (s.modYard f).cur = s.cur := rfl
@[simp] theorem State.modYard_curQ (s : State) (f : Yard → Yard) : (s.modYard f).curQ = s.curQ := rfl
@[simp] theorem State.modYard_curSq (s : State) (f : Yard → Yard) : (s.modYard f).curSq = s.curSq := rfl
@[simp] theorem State.modYard_now (s : State) (f : Yard → Yard) : (s.modYard f).now = s.now := rfl
@[simp] theorem State.modYard_freeCtr (s : State) (f : Yard → Yard) : (s.modYard f).freeCtr = s.freeCtr := rfl
@[simp] theorem State.modYard_die (s : State) (f : Yard → Yard) : (s.modYard f).die = s.die := rfl
@[simp] theorem State.modYard_boot (s : State) (f : Yard → Yard) : (s.modYard f).boot = s.boot := rfl
@[simp] theorem State.modYard_disc (s : State) (f : Yard → Yard) : (s.modYard f).disc = s.disc := rfl
@[simp] theorem State.modYard_mem (s : State) (f : Yard → Yard) : (s.modYard f).mem = s.mem := rfl
@[simp] theorem State.modYard_host (s : State) (f : Yard → Yard) : (s.modYard f).host = s.host := rfl
@[simp] theorem State.modYard_sheds (s : State) (f : Yard → Yard) : (s.modYard f).sheds = s.sheds := rfl
@[simp] theorem State.modYard_bays (s : State) (f : Yard → Yard) : (s.modYard f).bays = s.bays := rfl
@[simp] theorem State.modYard_msix (s : State) (f : Yard → Yard) : (s.modYard f).msix = s.msix := rfl
@[simp] theorem State.modYard_hostRead (s : State) (f : Yard → Yard) : (s.modYard f).hostRead = s.hostRead := rfl
@[simp] theorem State.modYard_reds (s : State) (f : Yard → Yard) : (s.modYard f).reds = s.reds := rfl
@[simp] theorem State.modYard_hists (s : State) (f : Yard → Yard) : (s.modYard f).hists = s.hists := rfl
@[simp] theorem State.modYard_sides (s : State) (f : Yard → Yard) : (s.modYard f).sides = s.sides := rfl
@[simp] theorem State.modYard_links (s : State) (f : Yard → Yard) : (s.modYard f).links = s.links := rfl
@[simp] theorem State.modYard_remote (s : State) (f : Yard → Yard) : (s.modYard f).remote = s.remote := rfl
@[simp] theorem State.modYard_losing (s : State) (f : Yard → Yard) : (s.modYard f).losing = s.losing := rfl
@[simp] theorem State.modYard_lofts (s : State) (f : Yard → Yard) : (s.modYard f).lofts = s.lofts := rfl
@[simp] theorem State.modYard_frames (s : State) (f : Yard → Yard) : (s.modYard f).frames = s.frames := rfl

@[simp] theorem State.modCtx_agenda (s : State) (c : CtxNo) (f : Ctx → Ctx) : (s.modCtx c f).agenda = s.agenda := rfl
@[simp] theorem State.modCtx_cur (s : State) (c : CtxNo) (f : Ctx → Ctx) : (s.modCtx c f).cur = s.cur := rfl
@[simp] theorem State.modCtx_curQ (s : State) (c : CtxNo) (f : Ctx → Ctx) : (s.modCtx c f).curQ = s.curQ := rfl
@[simp] theorem State.modCtx_curSq (s : State) (c : CtxNo) (f : Ctx → Ctx) : (s.modCtx c f).curSq = s.curSq := rfl
@[simp] theorem State.modCtx_now (s : State) (c : CtxNo) (f : Ctx → Ctx) : (s.modCtx c f).now = s.now := rfl
@[simp] theorem State.modCtx_freeCtr (s : State) (c : CtxNo) (f : Ctx → Ctx) : (s.modCtx c f).freeCtr = s.freeCtr := rfl
@[simp] theorem State.modCtx_die (s : State) (c : CtxNo) (f : Ctx → Ctx) : (s.modCtx c f).die = s.die := rfl
@[simp] theorem State.modCtx_boot (s : State) (c : CtxNo) (f : Ctx → Ctx) : (s.modCtx c f).boot = s.boot := rfl
@[simp] theorem State.modCtx_disc (s : State) (c : CtxNo) (f : Ctx → Ctx) : (s.modCtx c f).disc = s.disc := rfl
@[simp] theorem State.modCtx_mem (s : State) (c : CtxNo) (f : Ctx → Ctx) : (s.modCtx c f).mem = s.mem := rfl
@[simp] theorem State.modCtx_host (s : State) (c : CtxNo) (f : Ctx → Ctx) : (s.modCtx c f).host = s.host := rfl
@[simp] theorem State.modCtx_sheds (s : State) (c : CtxNo) (f : Ctx → Ctx) : (s.modCtx c f).sheds = s.sheds := rfl
@[simp] theorem State.modCtx_bays (s : State) (c : CtxNo) (f : Ctx → Ctx) : (s.modCtx c f).bays = s.bays := rfl
@[simp] theorem State.modCtx_msix (s : State) (c : CtxNo) (f : Ctx → Ctx) : (s.modCtx c f).msix = s.msix := rfl
@[simp] theorem State.modCtx_hostRead (s : State) (c : CtxNo) (f : Ctx → Ctx) : (s.modCtx c f).hostRead = s.hostRead := rfl
@[simp] theorem State.modCtx_reds (s : State) (c : CtxNo) (f : Ctx → Ctx) : (s.modCtx c f).reds = s.reds := rfl
@[simp] theorem State.modCtx_hists (s : State) (c : CtxNo) (f : Ctx → Ctx) : (s.modCtx c f).hists = s.hists := rfl
@[simp] theorem State.modCtx_sides (s : State) (c : CtxNo) (f : Ctx → Ctx) : (s.modCtx c f).sides = s.sides := rfl
@[simp] theorem State.modCtx_links (s : State) (c : CtxNo) (f : Ctx → Ctx) : (s.modCtx c f).links = s.links := rfl
@[simp] theorem State.modCtx_remote (s : State) (c : CtxNo) (f : Ctx → Ctx) : (s.modCtx c f).remote = s.remote := rfl
@[simp] theorem State.modCtx_losing (s : State) (c : CtxNo) (f : Ctx → Ctx) : (s.modCtx c f).losing = s.losing := rfl
@[simp] theorem State.modCtx_lofts (s : State) (c : CtxNo) (f : Ctx → Ctx) : (s.modCtx c f).lofts = s.lofts := rfl
@[simp] theorem State.modCtx_frames (s : State) (c : CtxNo) (f : Ctx → Ctx) : (s.modCtx c f).frames = s.frames := rfl

@[simp] theorem State.setSlot_agenda (s : State) (t : TaskId) (v : TaskSlot) : (s.setSlot t v).agenda = s.agenda := rfl
@[simp] theorem State.setSlot_cur (s : State) (t : TaskId) (v : TaskSlot) : (s.setSlot t v).cur = s.cur := rfl
@[simp] theorem State.setSlot_curQ (s : State) (t : TaskId) (v : TaskSlot) : (s.setSlot t v).curQ = s.curQ := rfl
@[simp] theorem State.setSlot_curSq (s : State) (t : TaskId) (v : TaskSlot) : (s.setSlot t v).curSq = s.curSq := rfl
@[simp] theorem State.setSlot_now (s : State) (t : TaskId) (v : TaskSlot) : (s.setSlot t v).now = s.now := rfl
@[simp] theorem State.setSlot_freeCtr (s : State) (t : TaskId) (v : TaskSlot) : (s.setSlot t v).freeCtr = s.freeCtr := rfl
@[simp] theorem State.setSlot_die (s : State) (t : TaskId) (v : TaskSlot) : (s.setSlot t v).die = s.die := rfl
@[simp] theorem State.setSlot_boot (s : State) (t : TaskId) (v : TaskSlot) : (s.setSlot t v).boot = s.boot := rfl
@[simp] theorem State.setSlot_disc (s : State) (t : TaskId) (v : TaskSlot) : (s.setSlot t v).disc = s.disc := rfl
@[simp] theorem State.setSlot_mem (s : State) (t : TaskId) (v : TaskSlot) : (s.setSlot t v).mem = s.mem := rfl
@[simp] theorem State.setSlot_host (s : State) (t : TaskId) (v : TaskSlot) : (s.setSlot t v).host = s.host := rfl
@[simp] theorem State.setSlot_sheds (s : State) (t : TaskId) (v : TaskSlot) : (s.setSlot t v).sheds = s.sheds := rfl
@[simp] theorem State.setSlot_bays (s : State) (t : TaskId) (v : TaskSlot) : (s.setSlot t v).bays = s.bays := rfl
@[simp] theorem State.setSlot_msix (s : State) (t : TaskId) (v : TaskSlot) : (s.setSlot t v).msix = s.msix := rfl
@[simp] theorem State.setSlot_hostRead (s : State) (t : TaskId) (v : TaskSlot) : (s.setSlot t v).hostRead = s.hostRead := rfl
@[simp] theorem State.setSlot_reds (s : State) (t : TaskId) (v : TaskSlot) : (s.setSlot t v).reds = s.reds := rfl
@[simp] theorem State.setSlot_hists (s : State) (t : TaskId) (v : TaskSlot) : (s.setSlot t v).hists = s.hists := rfl
@[simp] theorem State.setSlot_sides (s : State) (t : TaskId) (v : TaskSlot) : (s.setSlot t v).sides = s.sides := rfl
@[simp] theorem State.setSlot_links (s : State) (t : TaskId) (v : TaskSlot) : (s.setSlot t v).links = s.links := rfl
@[simp] theorem State.setSlot_remote (s : State) (t : TaskId) (v : TaskSlot) : (s.setSlot t v).remote = s.remote := rfl
@[simp] theorem State.setSlot_losing (s : State) (t : TaskId) (v : TaskSlot) : (s.setSlot t v).losing = s.losing := rfl
@[simp] theorem State.setSlot_lofts (s : State) (t : TaskId) (v : TaskSlot) : (s.setSlot t v).lofts = s.lofts := rfl
@[simp] theorem State.setSlot_frames (s : State) (t : TaskId) (v : TaskSlot) : (s.setSlot t v).frames = s.frames := rfl

@[simp] theorem State.modSlot_agenda (s : State) (t : TaskId) (f : TaskSlot → TaskSlot) : (s.modSlot t f).agenda = s.agenda := rfl
@[simp] theorem State.modSlot_cur (s : State) (t : TaskId) (f : TaskSlot → TaskSlot) : (s.modSlot t f).cur = s.cur := rfl
@[simp] theorem State.modSlot_curQ (s : State) (t : TaskId) (f : TaskSlot → TaskSlot) : (s.modSlot t f).curQ = s.curQ := rfl
@[simp] theorem State.modSlot_curSq (s : State) (t : TaskId) (f : TaskSlot → TaskSlot) : (s.modSlot t f).curSq = s.curSq := rfl
@[simp] theorem State.modSlot_now (s : State) (t : TaskId) (f : TaskSlot → TaskSlot) : (s.modSlot t f).now = s.now := rfl
@[simp] theorem State.modSlot_freeCtr (s : State) (t : TaskId) (f : TaskSlot → TaskSlot) : (s.modSlot t f).freeCtr = s.freeCtr := rfl
@[simp] theorem State.modSlot_die (s : State) (t : TaskId) (f : TaskSlot → TaskSlot) : (s.modSlot t f).die = s.die := rfl
@[simp] theorem State.modSlot_boot (s : State) (t : TaskId) (f : TaskSlot → TaskSlot) : (s.modSlot t f).boot = s.boot := rfl
@[simp] theorem State.modSlot_disc (s : State) (t : TaskId) (f : TaskSlot → TaskSlot) : (s.modSlot t f).disc = s.disc := rfl
@[simp] theorem State.modSlot_mem (s : State) (t : TaskId) (f : TaskSlot → TaskSlot) : (s.modSlot t f).mem = s.mem := rfl
@[simp] theorem State.modSlot_host (s : State) (t : TaskId) (f : TaskSlot → TaskSlot) : (s.modSlot t f).host = s.host := rfl
@[simp] theorem State.modSlot_sheds (s : State) (t : TaskId) (f : TaskSlot → TaskSlot) : (s.modSlot t f).sheds = s.sheds := rfl
@[simp] theorem State.modSlot_bays (s : State) (t : TaskId) (f : TaskSlot → TaskSlot) : (s.modSlot t f).bays = s.bays := rfl
@[simp] theorem State.modSlot_msix (s : State) (t : TaskId) (f : TaskSlot → TaskSlot) : (s.modSlot t f).msix = s.msix := rfl
@[simp] theorem State.modSlot_hostRead (s : State) (t : TaskId) (f : TaskSlot → TaskSlot) : (s.modSlot t f).hostRead = s.hostRead := rfl
@[simp] theorem State.modSlot_reds (s : State) (t : TaskId) (f : TaskSlot → TaskSlot) : (s.modSlot t f).reds = s.reds := rfl
@[simp] theorem State.modSlot_hists (s : State) (t : TaskId) (f : TaskSlot → TaskSlot) : (s.modSlot t f).hists = s.hists := rfl
@[simp] theorem State.modSlot_sides (s : State) (t : TaskId) (f : TaskSlot → TaskSlot) : (s.modSlot t f).sides = s.sides := rfl
@[simp] theorem State.modSlot_links (s : State) (t : TaskId) (f : TaskSlot → TaskSlot) : (s.modSlot t f).links = s.links := rfl
@[simp] theorem State.modSlot_remote (s : State) (t : TaskId) (f : TaskSlot → TaskSlot) : (s.modSlot t f).remote = s.remote := rfl
@[simp] theorem State.modSlot_losing (s : State) (t : TaskId) (f : TaskSlot → TaskSlot) : (s.modSlot t f).losing = s.losing := rfl
@[simp] theorem State.modSlot_lofts (s : State) (t : TaskId) (f : TaskSlot → TaskSlot) : (s.modSlot t f).lofts = s.lofts := rfl
@[simp] theorem State.modSlot_frames (s : State) (t : TaskId) (f : TaskSlot → TaskSlot) : (s.modSlot t f).frames = s.frames := rfl

@[simp] theorem State.modSq_agenda (s : State) (q : BitVec 6) (f : Sq → Sq) : (s.modSq q f).agenda = s.agenda := rfl
@[simp] theorem State.modSq_cur (s : State) (q : BitVec 6) (f : Sq → Sq) : (s.modSq q f).cur = s.cur := rfl
@[simp] theorem State.modSq_curQ (s : State) (q : BitVec 6) (f : Sq → Sq) : (s.modSq q f).curQ = s.curQ := rfl
@[simp] theorem State.modSq_curSq (s : State) (q : BitVec 6) (f : Sq → Sq) : (s.modSq q f).curSq = s.curSq := rfl
@[simp] theorem State.modSq_now (s : State) (q : BitVec 6) (f : Sq → Sq) : (s.modSq q f).now = s.now := rfl
@[simp] theorem State.modSq_freeCtr (s : State) (q : BitVec 6) (f : Sq → Sq) : (s.modSq q f).freeCtr = s.freeCtr := rfl
@[simp] theorem State.modSq_die (s : State) (q : BitVec 6) (f : Sq → Sq) : (s.modSq q f).die = s.die := rfl
@[simp] theorem State.modSq_boot (s : State) (q : BitVec 6) (f : Sq → Sq) : (s.modSq q f).boot = s.boot := rfl
@[simp] theorem State.modSq_disc (s : State) (q : BitVec 6) (f : Sq → Sq) : (s.modSq q f).disc = s.disc := rfl
@[simp] theorem State.modSq_mem (s : State) (q : BitVec 6) (f : Sq → Sq) : (s.modSq q f).mem = s.mem := rfl
@[simp] theorem State.modSq_host (s : State) (q : BitVec 6) (f : Sq → Sq) : (s.modSq q f).host = s.host := rfl
@[simp] theorem State.modSq_sheds (s : State) (q : BitVec 6) (f : Sq → Sq) : (s.modSq q f).sheds = s.sheds := rfl
@[simp] theorem State.modSq_bays (s : State) (q : BitVec 6) (f : Sq → Sq) : (s.modSq q f).bays = s.bays := rfl
@[simp] theorem State.modSq_msix (s : State) (q : BitVec 6) (f : Sq → Sq) : (s.modSq q f).msix = s.msix := rfl
@[simp] theorem State.modSq_hostRead (s : State) (q : BitVec 6) (f : Sq → Sq) : (s.modSq q f).hostRead = s.hostRead := rfl
@[simp] theorem State.modSq_reds (s : State) (q : BitVec 6) (f : Sq → Sq) : (s.modSq q f).reds = s.reds := rfl
@[simp] theorem State.modSq_hists (s : State) (q : BitVec 6) (f : Sq → Sq) : (s.modSq q f).hists = s.hists := rfl
@[simp] theorem State.modSq_sides (s : State) (q : BitVec 6) (f : Sq → Sq) : (s.modSq q f).sides = s.sides := rfl
@[simp] theorem State.modSq_links (s : State) (q : BitVec 6) (f : Sq → Sq) : (s.modSq q f).links = s.links := rfl
@[simp] theorem State.modSq_remote (s : State) (q : BitVec 6) (f : Sq → Sq) : (s.modSq q f).remote = s.remote := rfl
@[simp] theorem State.modSq_losing (s : State) (q : BitVec 6) (f : Sq → Sq) : (s.modSq q f).losing = s.losing := rfl
@[simp] theorem State.modSq_lofts (s : State) (q : BitVec 6) (f : Sq → Sq) : (s.modSq q f).lofts = s.lofts := rfl
@[simp] theorem State.modSq_frames (s : State) (q : BitVec 6) (f : Sq → Sq) : (s.modSq q f).frames = s.frames := rfl

/-- The counting unit and the classes that have dispatched are the cycle's own: no write of a slot, a queue or a bay touches them. -/
@[simp] theorem State.setSlot_unit (s : State) (t : TaskId) (v : TaskSlot) : (s.setSlot t v).yard.unit = s.yard.unit := rfl
@[simp] theorem State.setSlot_dispatched (s : State) (t : TaskId) (v : TaskSlot) : (s.setSlot t v).yard.dispatched = s.yard.dispatched := rfl
@[simp] theorem State.modSlot_unit (s : State) (t : TaskId) (f : TaskSlot → TaskSlot) : (s.modSlot t f).yard.unit = s.yard.unit := rfl
@[simp] theorem State.modSlot_dispatched (s : State) (t : TaskId) (f : TaskSlot → TaskSlot) : (s.modSlot t f).yard.dispatched = s.yard.dispatched := rfl
@[simp] theorem State.modSq_unit (s : State) (q : BitVec 6) (f : Sq → Sq) : (s.modSq q f).yard.unit = s.yard.unit := rfl
@[simp] theorem State.modSq_dispatched (s : State) (q : BitVec 6) (f : Sq → Sq) : (s.modSq q f).yard.dispatched = s.yard.dispatched := rfl
@[simp] theorem State.modCtx_unit (s : State) (c : CtxNo) (f : Ctx → Ctx) : (s.modCtx c f).yard.unit = s.yard.unit := rfl
@[simp] theorem State.modCtx_dispatched (s : State) (c : CtxNo) (f : Ctx → Ctx) : (s.modCtx c f).yard.dispatched = s.yard.dispatched := rfl
@[simp] theorem State.modBay_unit (s : State) (b : BayNo) (f : Bay → Bay) : (s.modBay b f).yard.unit = s.yard.unit := rfl
@[simp] theorem State.modBay_dispatched (s : State) (b : BayNo) (f : Bay → Bay) : (s.modBay b f).yard.dispatched = s.yard.dispatched := rfl

@[simp] theorem State.interrupt_agenda (s : State) (fn : BitVec 6) (v : Nat) : (s.interrupt fn v).agenda = s.agenda := rfl
@[simp] theorem State.interrupt_cur (s : State) (fn : BitVec 6) (v : Nat) : (s.interrupt fn v).cur = s.cur := rfl
@[simp] theorem State.interrupt_curQ (s : State) (fn : BitVec 6) (v : Nat) : (s.interrupt fn v).curQ = s.curQ := rfl
@[simp] theorem State.interrupt_curSq (s : State) (fn : BitVec 6) (v : Nat) : (s.interrupt fn v).curSq = s.curSq := rfl
@[simp] theorem State.interrupt_now (s : State) (fn : BitVec 6) (v : Nat) : (s.interrupt fn v).now = s.now := rfl
@[simp] theorem State.interrupt_freeCtr (s : State) (fn : BitVec 6) (v : Nat) : (s.interrupt fn v).freeCtr = s.freeCtr := rfl
@[simp] theorem State.interrupt_die (s : State) (fn : BitVec 6) (v : Nat) : (s.interrupt fn v).die = s.die := rfl
@[simp] theorem State.interrupt_boot (s : State) (fn : BitVec 6) (v : Nat) : (s.interrupt fn v).boot = s.boot := rfl
@[simp] theorem State.interrupt_disc (s : State) (fn : BitVec 6) (v : Nat) : (s.interrupt fn v).disc = s.disc := rfl
@[simp] theorem State.interrupt_mem (s : State) (fn : BitVec 6) (v : Nat) : (s.interrupt fn v).mem = s.mem := rfl
@[simp] theorem State.interrupt_host (s : State) (fn : BitVec 6) (v : Nat) : (s.interrupt fn v).host = s.host := rfl
@[simp] theorem State.interrupt_sheds (s : State) (fn : BitVec 6) (v : Nat) : (s.interrupt fn v).sheds = s.sheds := rfl
@[simp] theorem State.interrupt_bays (s : State) (fn : BitVec 6) (v : Nat) : (s.interrupt fn v).bays = s.bays := rfl
@[simp] theorem State.interrupt_yard (s : State) (fn : BitVec 6) (v : Nat) : (s.interrupt fn v).yard = s.yard := rfl
@[simp] theorem State.interrupt_hostRead (s : State) (fn : BitVec 6) (v : Nat) : (s.interrupt fn v).hostRead = s.hostRead := rfl
@[simp] theorem State.interrupt_reds (s : State) (fn : BitVec 6) (v : Nat) : (s.interrupt fn v).reds = s.reds := rfl
@[simp] theorem State.interrupt_hists (s : State) (fn : BitVec 6) (v : Nat) : (s.interrupt fn v).hists = s.hists := rfl
@[simp] theorem State.interrupt_sides (s : State) (fn : BitVec 6) (v : Nat) : (s.interrupt fn v).sides = s.sides := rfl
@[simp] theorem State.interrupt_links (s : State) (fn : BitVec 6) (v : Nat) : (s.interrupt fn v).links = s.links := rfl
@[simp] theorem State.interrupt_remote (s : State) (fn : BitVec 6) (v : Nat) : (s.interrupt fn v).remote = s.remote := rfl
@[simp] theorem State.interrupt_losing (s : State) (fn : BitVec 6) (v : Nat) : (s.interrupt fn v).losing = s.losing := rfl
@[simp] theorem State.interrupt_lofts (s : State) (fn : BitVec 6) (v : Nat) : (s.interrupt fn v).lofts = s.lofts := rfl
@[simp] theorem State.interrupt_frames (s : State) (fn : BitVec 6) (v : Nat) : (s.interrupt fn v).frames = s.frames := rfl

@[simp] theorem State.setBuf_agenda (s : State) (c : CtxNo) (i : BufId) (v : Buf) : (s.setBuf c i v).agenda = s.agenda := rfl
@[simp] theorem State.setBuf_cur (s : State) (c : CtxNo) (i : BufId) (v : Buf) : (s.setBuf c i v).cur = s.cur := rfl
@[simp] theorem State.setBuf_curQ (s : State) (c : CtxNo) (i : BufId) (v : Buf) : (s.setBuf c i v).curQ = s.curQ := rfl
@[simp] theorem State.setBuf_curSq (s : State) (c : CtxNo) (i : BufId) (v : Buf) : (s.setBuf c i v).curSq = s.curSq := rfl
@[simp] theorem State.setBuf_now (s : State) (c : CtxNo) (i : BufId) (v : Buf) : (s.setBuf c i v).now = s.now := rfl
@[simp] theorem State.setBuf_freeCtr (s : State) (c : CtxNo) (i : BufId) (v : Buf) : (s.setBuf c i v).freeCtr = s.freeCtr := rfl
@[simp] theorem State.setBuf_die (s : State) (c : CtxNo) (i : BufId) (v : Buf) : (s.setBuf c i v).die = s.die := rfl
@[simp] theorem State.setBuf_boot (s : State) (c : CtxNo) (i : BufId) (v : Buf) : (s.setBuf c i v).boot = s.boot := rfl
@[simp] theorem State.setBuf_disc (s : State) (c : CtxNo) (i : BufId) (v : Buf) : (s.setBuf c i v).disc = s.disc := rfl
@[simp] theorem State.setBuf_mem (s : State) (c : CtxNo) (i : BufId) (v : Buf) : (s.setBuf c i v).mem = s.mem := rfl
@[simp] theorem State.setBuf_host (s : State) (c : CtxNo) (i : BufId) (v : Buf) : (s.setBuf c i v).host = s.host := rfl
@[simp] theorem State.setBuf_sheds (s : State) (c : CtxNo) (i : BufId) (v : Buf) : (s.setBuf c i v).sheds = s.sheds := rfl
@[simp] theorem State.setBuf_bays (s : State) (c : CtxNo) (i : BufId) (v : Buf) : (s.setBuf c i v).bays = s.bays := rfl
@[simp] theorem State.setBuf_msix (s : State) (c : CtxNo) (i : BufId) (v : Buf) : (s.setBuf c i v).msix = s.msix := rfl
@[simp] theorem State.setBuf_hostRead (s : State) (c : CtxNo) (i : BufId) (v : Buf) : (s.setBuf c i v).hostRead = s.hostRead := rfl
@[simp] theorem State.setBuf_reds (s : State) (c : CtxNo) (i : BufId) (v : Buf) : (s.setBuf c i v).reds = s.reds := rfl
@[simp] theorem State.setBuf_hists (s : State) (c : CtxNo) (i : BufId) (v : Buf) : (s.setBuf c i v).hists = s.hists := rfl
@[simp] theorem State.setBuf_sides (s : State) (c : CtxNo) (i : BufId) (v : Buf) : (s.setBuf c i v).sides = s.sides := rfl
@[simp] theorem State.setBuf_links (s : State) (c : CtxNo) (i : BufId) (v : Buf) : (s.setBuf c i v).links = s.links := rfl
@[simp] theorem State.setBuf_remote (s : State) (c : CtxNo) (i : BufId) (v : Buf) : (s.setBuf c i v).remote = s.remote := rfl
@[simp] theorem State.setBuf_losing (s : State) (c : CtxNo) (i : BufId) (v : Buf) : (s.setBuf c i v).losing = s.losing := rfl
@[simp] theorem State.setBuf_lofts (s : State) (c : CtxNo) (i : BufId) (v : Buf) : (s.setBuf c i v).lofts = s.lofts := rfl
@[simp] theorem State.setBuf_frames (s : State) (c : CtxNo) (i : BufId) (v : Buf) : (s.setBuf c i v).frames = s.frames := rfl

/-! ### Bays, sheds, queues, registers -/

@[simp] theorem State.bay_setBay_same (s : State) (b : BayNo) (v : Bay) : (s.setBay b v).bay b = v := by
  simp [State.bay, State.setBay]
theorem State.bay_setBay (s : State) (b c : BayNo) (v : Bay) :
    (s.setBay b v).bay c = if c = b then v else s.bay c := by
  simp only [State.bay, State.setBay, Tab.get_put, BitVec.toNat_inj]
@[simp] theorem State.bay_modBay_same (s : State) (b : BayNo) (f : Bay → Bay) : (s.modBay b f).bay b = f (s.bay b) := by
  simp [State.modBay]
theorem State.bay_modBay (s : State) (b c : BayNo) (f : Bay → Bay) :
    (s.modBay b f).bay c = if c = b then f (s.bay b) else s.bay c := by simp [State.modBay, State.bay_setBay]
@[simp] theorem State.shed_setBay (s : State) (b : BayNo) (v : Bay) (n : BitVec 4) : (s.setBay b v).shed n = s.shed n := rfl
@[simp] theorem State.shed_modBay (s : State) (b : BayNo) (f : Bay → Bay) (n : BitVec 4) :
    (s.modBay b f).shed n = s.shed n := rfl
theorem State.shed_setShed (s : State) (n m : BitVec 4) (v : Shed) :
    (s.setShed n v).shed m = if m = n then v else s.shed m := by
  simp only [State.shed, State.setShed, Tab.get_put, BitVec.toNat_inj]
@[simp] theorem State.bay_setShed (s : State) (n : BitVec 4) (v : Shed) (b : BayNo) : (s.setShed n v).bay b = s.bay b := rfl
@[simp] theorem State.bay_modShed (s : State) (n : BitVec 4) (f : Shed → Shed) (b : BayNo) :
    (s.modShed n f).bay b = s.bay b := rfl
@[simp] theorem State.bay_modYard (s : State) (f : Yard → Yard) (b : BayNo) : (s.modYard f).bay b = s.bay b := rfl

@[simp] theorem Gen.rd_zero (g : Gen) : g.rd 0 = 0 := rfl
@[simp] theorem Gen.wr_zero (g : Gen) (v : Word) : g.wr 0 v = g := rfl
theorem Gen.rd_wr (g : Gen) (r k : Reg) (v : Word) :
    (g.wr r v).rd k = if k = 0 then 0 else if k = r then v else g.rd k := by
  unfold Gen.rd Gen.wr
  by_cases hk : k = 0
  · rw [if_pos hk, if_pos hk]
  · rw [if_neg hk, if_neg hk]
    by_cases hr : r = 0
    · rw [if_pos hr, if_neg (by rw [hr]; exact hk), if_neg hk]
    · rw [if_neg hr, if_neg hk]
      simp only [Tab.get_put, BitVec.toNat_inj]
@[simp] theorem Gen.wr_pc (g : Gen) (r : Reg) (v : Word) : (g.wr r v).pc = g.pc := by unfold Gen.wr; split <;> rfl
@[simp] theorem Gen.wr_mode (g : Gen) (r : Reg) (v : Word) : (g.wr r v).mode = g.mode := by unfold Gen.wr; split <;> rfl
@[simp] theorem Gen.wr_zclass (g : Gen) (r : Reg) (v : Word) : (g.wr r v).zclass = g.zclass := by unfold Gen.wr; split <;> rfl
@[simp] theorem Gen.wr_zrelmask (g : Gen) (r : Reg) (v : Word) : (g.wr r v).zrelmask = g.zrelmask := by unfold Gen.wr; split <;> rfl
@[simp] theorem Gen.wr_srseed (g : Gen) (r : Reg) (v : Word) : (g.wr r v).srseed = g.srseed := by unfold Gen.wr; split <;> rfl
@[simp] theorem Gen.wr_srstep (g : Gen) (r : Reg) (v : Word) : (g.wr r v).srstep = g.srstep := by unfold Gen.wr; split <;> rfl
@[simp] theorem Gen.wr_hlimit (g : Gen) (r : Reg) (v : Word) : (g.wr r v).hlimit = g.hlimit := by unfold Gen.wr; split <;> rfl
@[simp] theorem Gen.wr_bbcSlot (g : Gen) (r : Reg) (v : Word) : (g.wr r v).bbcSlot = g.bbcSlot := by unfold Gen.wr; split <;> rfl
@[simp] theorem Gen.wr_bbcEn (g : Gen) (r : Reg) (v : Word) : (g.wr r v).bbcEn = g.bbcEn := by unfold Gen.wr; split <;> rfl
@[simp] theorem Gen.wr_bbcOff8 (g : Gen) (r : Reg) (v : Word) : (g.wr r v).bbcOff8 = g.bbcOff8 := by unfold Gen.wr; split <;> rfl
@[simp] theorem Gen.wr_csr (g : Gen) (r : Reg) (v : Word) : (g.wr r v).csr = g.csr := by unfold Gen.wr; split <;> rfl
@[simp] theorem Gen.wr_wait (g : Gen) (r : Reg) (v : Word) : (g.wr r v).wait = g.wait := by unfold Gen.wr; split <;> rfl
@[simp] theorem Gen.wr_parked (g : Gen) (r : Reg) (v : Word) : (g.wr r v).parked = g.parked := by unfold Gen.wr; split <;> rfl
@[simp] theorem Gen.wr_mfault (g : Gen) (r : Reg) (v : Word) : (g.wr r v).mfault = g.mfault := by unfold Gen.wr; split <;> rfl
@[simp] theorem Gen.csrWr_x (g : Gen) (n : Nat) (v : Word) : (g.csrWr n v).x = g.x := rfl
@[simp] theorem Gen.csrWr_pc (g : Gen) (n : Nat) (v : Word) : (g.csrWr n v).pc = g.pc := rfl
@[simp] theorem Gen.csrWr_mode (g : Gen) (n : Nat) (v : Word) : (g.csrWr n v).mode = g.mode := rfl
@[simp] theorem Gen.csrWr_zclass (g : Gen) (n : Nat) (v : Word) : (g.csrWr n v).zclass = g.zclass := rfl
@[simp] theorem Gen.csrWr_zrelmask (g : Gen) (n : Nat) (v : Word) : (g.csrWr n v).zrelmask = g.zrelmask := rfl
@[simp] theorem Gen.csrWr_srseed (g : Gen) (n : Nat) (v : Word) : (g.csrWr n v).srseed = g.srseed := rfl
@[simp] theorem Gen.csrWr_srstep (g : Gen) (n : Nat) (v : Word) : (g.csrWr n v).srstep = g.srstep := rfl
@[simp] theorem Gen.csrWr_hlimit (g : Gen) (n : Nat) (v : Word) : (g.csrWr n v).hlimit = g.hlimit := rfl
@[simp] theorem Gen.csrWr_bbcSlot (g : Gen) (n : Nat) (v : Word) : (g.csrWr n v).bbcSlot = g.bbcSlot := rfl
@[simp] theorem Gen.csrWr_bbcEn (g : Gen) (n : Nat) (v : Word) : (g.csrWr n v).bbcEn = g.bbcEn := rfl
@[simp] theorem Gen.csrWr_bbcOff8 (g : Gen) (n : Nat) (v : Word) : (g.csrWr n v).bbcOff8 = g.bbcOff8 := rfl
@[simp] theorem Gen.csrWr_wait (g : Gen) (n : Nat) (v : Word) : (g.csrWr n v).wait = g.wait := rfl
@[simp] theorem Gen.csrWr_parked (g : Gen) (n : Nat) (v : Word) : (g.csrWr n v).parked = g.parked := rfl
@[simp] theorem Gen.csrWr_mfault (g : Gen) (n : Nat) (v : Word) : (g.csrWr n v).mfault = g.mfault := rfl
theorem Gen.csrRd_csrWr (g : Gen) (n k : Nat) (v : Word) :
    (g.csrWr n v).csrRd k = if k = n then v else g.csrRd k := by simp [Gen.csrRd, Gen.csrWr, Tab.get_put]
@[simp] theorem Gen.rd_csrWr (g : Gen) (n : Nat) (v : Word) (r : Reg) : (g.csrWr n v).rd r = g.rd r := rfl

@[simp] theorem Bay.modGen_task (y : Bay) (f : Gen → Gen) : (y.modGen f).task = y.task := rfl
@[simp] theorem Bay.modGen_ctx (y : Bay) (f : Gen → Gen) : (y.modGen f).ctx = y.ctx := rfl
@[simp] theorem Bay.modGen_lastCtx (y : Bay) (f : Gen → Gen) : (y.modGen f).lastCtx = y.lastCtx := rfl
@[simp] theorem Bay.modGen_args (y : Bay) (f : Gen → Gen) : (y.modGen f).args = y.args := rfl
@[simp] theorem Bay.modGen_capm (y : Bay) (f : Gen → Gen) : (y.modGen f).capm = y.capm := rfl
@[simp] theorem Bay.modGen_code (y : Bay) (f : Gen → Gen) : (y.modGen f).code = y.code := rfl
@[simp] theorem Bay.modGen_csize (y : Bay) (f : Gen → Gen) : (y.modGen f).csize = y.csize := rfl
@[simp] theorem Bay.modGen_caps (y : Bay) (f : Gen → Gen) : (y.modGen f).caps = y.caps := rfl
@[simp] theorem Bay.modGen_look (y : Bay) (f : Gen → Gen) : (y.modGen f).look = y.look := rfl
@[simp] theorem Bay.modGen_dlines (y : Bay) (f : Gen → Gen) : (y.modGen f).dlines = y.dlines := rfl
@[simp] theorem Bay.modGen_forks (y : Bay) (f : Gen → Gen) : (y.modGen f).forks = y.forks := rfl
@[simp] theorem Bay.modGen_forked (y : Bay) (f : Gen → Gen) : (y.modGen f).forked = y.forked := rfl
@[simp] theorem Bay.modGen_judged (y : Bay) (f : Gen → Gen) : (y.modGen f).judged = y.judged := rfl
@[simp] theorem Bay.modGen_icache (y : Bay) (f : Gen → Gen) : (y.modGen f).icache = y.icache := rfl
@[simp] theorem Bay.modGen_dcache (y : Bay) (f : Gen → Gen) : (y.modGen f).dcache = y.dcache := rfl
@[simp] theorem Bay.modGen_firmware (y : Bay) (f : Gen → Gen) : (y.modGen f).firmware = y.firmware := rfl
@[simp] theorem Bay.modGen_tiles (y : Bay) (f : Gen → Gen) : (y.modGen f).tiles = y.tiles := rfl
@[simp] theorem Bay.modGen_store (y : Bay) (f : Gen → Gen) : (y.modGen f).store = y.store := rfl
@[simp] theorem Bay.modGen_bars (y : Bay) (f : Gen → Gen) : (y.modGen f).bars = y.bars := rfl
@[simp] theorem Bay.modGen_wcnt (y : Bay) (f : Gen → Gen) : (y.modGen f).wcnt = y.wcnt := rfl
@[simp] theorem Bay.modGen_slipMask (y : Bay) (f : Gen → Gen) : (y.modGen f).slipMask = y.slipMask := rfl
@[simp] theorem Bay.modGen_slipDepth (y : Bay) (f : Gen → Gen) : (y.modGen f).slipDepth = y.slipDepth := rfl
@[simp] theorem Bay.modGen_counters (y : Bay) (f : Gen → Gen) : (y.modGen f).counters = y.counters := rfl
@[simp] theorem Bay.modGen_eseq (y : Bay) (f : Gen → Gen) : (y.modGen f).eseq = y.eseq := rfl
@[simp] theorem Bay.modGen_pend (y : Bay) (f : Gen → Gen) : (y.modGen f).pend = y.pend := rfl
@[simp] theorem Bay.modGen_seqNo (y : Bay) (f : Gen → Gen) : (y.modGen f).seqNo = y.seqNo := rfl
@[simp] theorem Bay.modGen_mtx (y : Bay) (f : Gen → Gen) : (y.modGen f).mtx = y.mtx := rfl
@[simp] theorem Bay.modGen_vec (y : Bay) (f : Gen → Gen) : (y.modGen f).vec = y.vec := rfl
@[simp] theorem Bay.modGen_cin (y : Bay) (f : Gen → Gen) : (y.modGen f).cin = y.cin := rfl
@[simp] theorem Bay.modGen_cout (y : Bay) (f : Gen → Gen) : (y.modGen f).cout = y.cout := rfl
@[simp] theorem Bay.modGen_cls (y : Bay) (f : Gen → Gen) : (y.modGen f).cls = y.cls := rfl
@[simp] theorem Bay.modGen_mx (y : Bay) (f : Gen → Gen) : (y.modGen f).mx = y.mx := rfl
@[simp] theorem Bay.modGen_vx (y : Bay) (f : Gen → Gen) : (y.modGen f).vx = y.vx := rfl
@[simp] theorem Bay.modGen_cpIn (y : Bay) (f : Gen → Gen) : (y.modGen f).cpIn = y.cpIn := rfl
@[simp] theorem Bay.modGen_cpOut (y : Bay) (f : Gen → Gen) : (y.modGen f).cpOut = y.cpOut := rfl
@[simp] theorem Bay.modGen_kx (y : Bay) (f : Gen → Gen) : (y.modGen f).kx = y.kx := rfl
@[simp] theorem Bay.modGen_wf (y : Bay) (f : Gen → Gen) : (y.modGen f).wf = y.wf := rfl
@[simp] theorem Bay.modGen_debugStop (y : Bay) (f : Gen → Gen) : (y.modGen f).debugStop = y.debugStop := rfl
@[simp] theorem Bay.modGen_saving (y : Bay) (f : Gen → Gen) : (y.modGen f).saving = y.saving := rfl
@[simp] theorem Bay.modGen_saveCount (y : Bay) (f : Gen → Gen) : (y.modGen f).saveCount = y.saveCount := rfl
@[simp] theorem Bay.modGen_gen (y : Bay) (f : Gen → Gen) : (y.modGen f).gen = f y.gen := rfl
@[simp] theorem Bay.retireTo_task (y : Bay) (p : Word) : (y.retireTo p).task = y.task := rfl
@[simp] theorem Bay.retireTo_ctx (y : Bay) (p : Word) : (y.retireTo p).ctx = y.ctx := rfl
@[simp] theorem Bay.retireTo_lastCtx (y : Bay) (p : Word) : (y.retireTo p).lastCtx = y.lastCtx := rfl
@[simp] theorem Bay.retireTo_args (y : Bay) (p : Word) : (y.retireTo p).args = y.args := rfl
@[simp] theorem Bay.retireTo_capm (y : Bay) (p : Word) : (y.retireTo p).capm = y.capm := rfl
@[simp] theorem Bay.retireTo_code (y : Bay) (p : Word) : (y.retireTo p).code = y.code := rfl
@[simp] theorem Bay.retireTo_csize (y : Bay) (p : Word) : (y.retireTo p).csize = y.csize := rfl
@[simp] theorem Bay.retireTo_caps (y : Bay) (p : Word) : (y.retireTo p).caps = y.caps := rfl
@[simp] theorem Bay.retireTo_look (y : Bay) (p : Word) : (y.retireTo p).look = y.look := rfl
@[simp] theorem Bay.retireTo_dlines (y : Bay) (p : Word) : (y.retireTo p).dlines = y.dlines := rfl
@[simp] theorem Bay.retireTo_forks (y : Bay) (p : Word) : (y.retireTo p).forks = y.forks := rfl
@[simp] theorem Bay.retireTo_forked (y : Bay) (p : Word) : (y.retireTo p).forked = y.forked := rfl
@[simp] theorem Bay.retireTo_judged (y : Bay) (p : Word) : (y.retireTo p).judged = y.judged := rfl
@[simp] theorem Bay.retireTo_icache (y : Bay) (p : Word) : (y.retireTo p).icache = y.icache := rfl
@[simp] theorem Bay.retireTo_dcache (y : Bay) (p : Word) : (y.retireTo p).dcache = y.dcache := rfl
@[simp] theorem Bay.retireTo_firmware (y : Bay) (p : Word) : (y.retireTo p).firmware = y.firmware := rfl
@[simp] theorem Bay.retireTo_tiles (y : Bay) (p : Word) : (y.retireTo p).tiles = y.tiles := rfl
@[simp] theorem Bay.retireTo_store (y : Bay) (p : Word) : (y.retireTo p).store = y.store := rfl
@[simp] theorem Bay.retireTo_bars (y : Bay) (p : Word) : (y.retireTo p).bars = y.bars := rfl
@[simp] theorem Bay.retireTo_wcnt (y : Bay) (p : Word) : (y.retireTo p).wcnt = y.wcnt := rfl
@[simp] theorem Bay.retireTo_slipMask (y : Bay) (p : Word) : (y.retireTo p).slipMask = y.slipMask := rfl
@[simp] theorem Bay.retireTo_slipDepth (y : Bay) (p : Word) : (y.retireTo p).slipDepth = y.slipDepth := rfl
@[simp] theorem Bay.retireTo_counters (y : Bay) (p : Word) : (y.retireTo p).counters = y.counters := rfl
@[simp] theorem Bay.retireTo_eseq (y : Bay) (p : Word) : (y.retireTo p).eseq = y.eseq := rfl
@[simp] theorem Bay.retireTo_pend (y : Bay) (p : Word) : (y.retireTo p).pend = y.pend := rfl
@[simp] theorem Bay.retireTo_seqNo (y : Bay) (p : Word) : (y.retireTo p).seqNo = y.seqNo := rfl
@[simp] theorem Bay.retireTo_mtx (y : Bay) (p : Word) : (y.retireTo p).mtx = y.mtx := rfl
@[simp] theorem Bay.retireTo_vec (y : Bay) (p : Word) : (y.retireTo p).vec = y.vec := rfl
@[simp] theorem Bay.retireTo_cin (y : Bay) (p : Word) : (y.retireTo p).cin = y.cin := rfl
@[simp] theorem Bay.retireTo_cout (y : Bay) (p : Word) : (y.retireTo p).cout = y.cout := rfl
@[simp] theorem Bay.retireTo_cls (y : Bay) (p : Word) : (y.retireTo p).cls = y.cls := rfl
@[simp] theorem Bay.retireTo_mx (y : Bay) (p : Word) : (y.retireTo p).mx = y.mx := rfl
@[simp] theorem Bay.retireTo_vx (y : Bay) (p : Word) : (y.retireTo p).vx = y.vx := rfl
@[simp] theorem Bay.retireTo_cpIn (y : Bay) (p : Word) : (y.retireTo p).cpIn = y.cpIn := rfl
@[simp] theorem Bay.retireTo_cpOut (y : Bay) (p : Word) : (y.retireTo p).cpOut = y.cpOut := rfl
@[simp] theorem Bay.retireTo_kx (y : Bay) (p : Word) : (y.retireTo p).kx = y.kx := rfl
@[simp] theorem Bay.retireTo_wf (y : Bay) (p : Word) : (y.retireTo p).wf = y.wf := rfl
@[simp] theorem Bay.retireTo_debugStop (y : Bay) (p : Word) : (y.retireTo p).debugStop = y.debugStop := rfl
@[simp] theorem Bay.retireTo_saving (y : Bay) (p : Word) : (y.retireTo p).saving = y.saving := rfl
@[simp] theorem Bay.retireTo_saveCount (y : Bay) (p : Word) : (y.retireTo p).saveCount = y.saveCount := rfl
@[simp] theorem Bay.fault_task (y : Bay) (c : Nat) (v : Word) : (y.fault c v).task = y.task := rfl
@[simp] theorem Bay.fault_ctx (y : Bay) (c : Nat) (v : Word) : (y.fault c v).ctx = y.ctx := rfl
@[simp] theorem Bay.fault_lastCtx (y : Bay) (c : Nat) (v : Word) : (y.fault c v).lastCtx = y.lastCtx := rfl
@[simp] theorem Bay.fault_args (y : Bay) (c : Nat) (v : Word) : (y.fault c v).args = y.args := rfl
@[simp] theorem Bay.fault_capm (y : Bay) (c : Nat) (v : Word) : (y.fault c v).capm = y.capm := rfl
@[simp] theorem Bay.fault_code (y : Bay) (c : Nat) (v : Word) : (y.fault c v).code = y.code := rfl
@[simp] theorem Bay.fault_csize (y : Bay) (c : Nat) (v : Word) : (y.fault c v).csize = y.csize := rfl
@[simp] theorem Bay.fault_caps (y : Bay) (c : Nat) (v : Word) : (y.fault c v).caps = y.caps := rfl
@[simp] theorem Bay.fault_look (y : Bay) (c : Nat) (v : Word) : (y.fault c v).look = y.look := rfl
@[simp] theorem Bay.fault_dlines (y : Bay) (c : Nat) (v : Word) : (y.fault c v).dlines = y.dlines := rfl
@[simp] theorem Bay.fault_forks (y : Bay) (c : Nat) (v : Word) : (y.fault c v).forks = y.forks := rfl
@[simp] theorem Bay.fault_forked (y : Bay) (c : Nat) (v : Word) : (y.fault c v).forked = y.forked := rfl
@[simp] theorem Bay.fault_judged (y : Bay) (c : Nat) (v : Word) : (y.fault c v).judged = y.judged := rfl
@[simp] theorem Bay.fault_icache (y : Bay) (c : Nat) (v : Word) : (y.fault c v).icache = y.icache := rfl
@[simp] theorem Bay.fault_dcache (y : Bay) (c : Nat) (v : Word) : (y.fault c v).dcache = y.dcache := rfl
@[simp] theorem Bay.fault_firmware (y : Bay) (c : Nat) (v : Word) : (y.fault c v).firmware = y.firmware := rfl
@[simp] theorem Bay.fault_tiles (y : Bay) (c : Nat) (v : Word) : (y.fault c v).tiles = y.tiles := rfl
@[simp] theorem Bay.fault_store (y : Bay) (c : Nat) (v : Word) : (y.fault c v).store = y.store := rfl
@[simp] theorem Bay.fault_bars (y : Bay) (c : Nat) (v : Word) : (y.fault c v).bars = y.bars := rfl
@[simp] theorem Bay.fault_wcnt (y : Bay) (c : Nat) (v : Word) : (y.fault c v).wcnt = y.wcnt := rfl
@[simp] theorem Bay.fault_slipMask (y : Bay) (c : Nat) (v : Word) : (y.fault c v).slipMask = y.slipMask := rfl
@[simp] theorem Bay.fault_slipDepth (y : Bay) (c : Nat) (v : Word) : (y.fault c v).slipDepth = y.slipDepth := rfl
@[simp] theorem Bay.fault_counters (y : Bay) (c : Nat) (v : Word) : (y.fault c v).counters = y.counters := rfl
@[simp] theorem Bay.fault_eseq (y : Bay) (c : Nat) (v : Word) : (y.fault c v).eseq = y.eseq := rfl
@[simp] theorem Bay.fault_pend (y : Bay) (c : Nat) (v : Word) : (y.fault c v).pend = y.pend := rfl
@[simp] theorem Bay.fault_seqNo (y : Bay) (c : Nat) (v : Word) : (y.fault c v).seqNo = y.seqNo := rfl
@[simp] theorem Bay.fault_mtx (y : Bay) (c : Nat) (v : Word) : (y.fault c v).mtx = y.mtx := rfl
@[simp] theorem Bay.fault_vec (y : Bay) (c : Nat) (v : Word) : (y.fault c v).vec = y.vec := rfl
@[simp] theorem Bay.fault_cin (y : Bay) (c : Nat) (v : Word) : (y.fault c v).cin = y.cin := rfl
@[simp] theorem Bay.fault_cout (y : Bay) (c : Nat) (v : Word) : (y.fault c v).cout = y.cout := rfl
@[simp] theorem Bay.fault_cls (y : Bay) (c : Nat) (v : Word) : (y.fault c v).cls = y.cls := rfl
@[simp] theorem Bay.fault_mx (y : Bay) (c : Nat) (v : Word) : (y.fault c v).mx = y.mx := rfl
@[simp] theorem Bay.fault_vx (y : Bay) (c : Nat) (v : Word) : (y.fault c v).vx = y.vx := rfl
@[simp] theorem Bay.fault_cpIn (y : Bay) (c : Nat) (v : Word) : (y.fault c v).cpIn = y.cpIn := rfl
@[simp] theorem Bay.fault_cpOut (y : Bay) (c : Nat) (v : Word) : (y.fault c v).cpOut = y.cpOut := rfl
@[simp] theorem Bay.fault_kx (y : Bay) (c : Nat) (v : Word) : (y.fault c v).kx = y.kx := rfl
@[simp] theorem Bay.fault_wf (y : Bay) (c : Nat) (v : Word) : (y.fault c v).wf = y.wf := rfl
@[simp] theorem Bay.fault_debugStop (y : Bay) (c : Nat) (v : Word) : (y.fault c v).debugStop = y.debugStop := rfl
@[simp] theorem Bay.fault_saving (y : Bay) (c : Nat) (v : Word) : (y.fault c v).saving = y.saving := rfl
@[simp] theorem Bay.fault_saveCount (y : Bay) (c : Nat) (v : Word) : (y.fault c v).saveCount = y.saveCount := rfl

/-- Retiring moves the pc, counts the instruction, ends a wait and restarts the hang count; nothing else changes. -/
@[simp] theorem Bay.retireTo_pc (y : Bay) (p : Word) : (y.retireTo p).gen.pc = p := rfl
@[simp] theorem Gen.countRetire_x (g : Gen) : g.countRetire.x = g.x := by unfold Gen.countRetire; split <;> rfl
@[simp] theorem Gen.rd_countRetire (g : Gen) (r : Reg) : g.countRetire.rd r = g.rd r := by simp [Gen.rd]
@[simp] theorem Bay.retireTo_rd (y : Bay) (p : Word) (r : Reg) : (y.retireTo p).gen.rd r = y.gen.rd r := by
  simp [Bay.retireTo, Bay.progress, Gen.rd]
@[simp] theorem Bay.retire_pc (y : Bay) : y.retire.gen.pc = y.gen.pc + 4 := rfl
@[simp] theorem Bay.retireWith_pc (y : Bay) (r : Reg) (v : Word) : (y.retireWith r v).gen.pc = y.gen.pc + 4 := by
  simp [Bay.retireWith]

end Sys2Proof.Machine
end

