-- ==== Sys2Proof/Laws/Generator.lean ====
section
/-! SUPPORT. What retiring an instruction leaves: everything but the generator, and of it all but the destination, the
pc, the wait and the count of retired instructions. -/
namespace Sys2Proof.Machine

/-- The bits of a word with a field replaced. -/
theorem getLsbD_setBits (v x : Word) (lo n k : Nat) (hk : k < 64) :
    (setBits v lo n x).getLsbD k = if lo ≤ k ∧ k < lo + n then x.getLsbD (k - lo) else v.getLsbD k := by
  simp only [setBits, BitVec.getLsbD_or, BitVec.getLsbD_and, BitVec.getLsbD_not, BitVec.getLsbD_shiftLeft,
    BitVec.getLsbD_ofNat, Nat.testBit_two_pow_sub_one, hk, decide_true, Bool.true_and]
  split <;> rename_i h
  · have h1 : ¬ k < lo := by omega
    have h2 : k - lo < n := by omega
    have h3 : k - lo < 64 := by omega
    simp [h1, h2, h3]
  · by_cases h1 : k < lo
    · simp [h1]
    · have h2 : ¬ k - lo < n := by omega
      simp [h1, h2]

theorem getElem_setBits (v x : Word) (lo n k : Nat) (hk : k < 64) :
    (setBits v lo n x)[k] = if lo ≤ k ∧ k < lo + n then x.getLsbD (k - lo) else v[k] := by
  have h := getLsbD_setBits v x lo n k hk
  simpa only [BitVec.getLsbD_eq_getElem hk] using h

/-- A bit outside the field stays. -/
theorem getLsbD_setBits_ne (v x : Word) (lo n k : Nat) (h : k < lo ∨ lo + n ≤ k) :
    (setBits v lo n x).getLsbD k = v.getLsbD k := by
  rcases Nat.lt_or_ge k 64 with hk | hk
  · rw [getLsbD_setBits _ _ _ _ _ hk, if_neg (by omega)]
  · rw [BitVec.getLsbD_of_ge _ _ hk, BitVec.getLsbD_of_ge _ _ hk]

theorem onlyBay_modBay (s : State) (b : BayNo) (f : Bay → Bay) : onlyBay b s (s.modBay b f) := by
  refine ⟨rfl, fun c hc => ?_⟩
  rw [State.bay_modBay, if_neg hc]

theorem csrRd_countRetire (g : Gen) (n : Nat) (h : n ≠ 0xB02) : g.countRetire.csrRd n = g.csrRd n := by
  unfold Gen.countRetire; split <;> simp [Gen.csrRd_csrWr, h]

@[simp] theorem Gen.csrRd_wr (g : Gen) (r : Reg) (v : Word) (n : Nat) : (g.wr r v).csrRd n = g.csrRd n := by
  simp [Gen.csrRd]

theorem Gen.countRetire_eq (g : Gen) : g.countRetire = { g with csr := g.countRetire.csr } := by
  unfold Gen.countRetire; split <;> rfl

/-- Retiring touches only the generator and the hang count. -/
theorem onlyGen_retireTo (b : Bay) (p : Word) : onlyGen b (b.retireTo p) := rfl

theorem genRetires_retireTo (b : Bay) (p : Word) : genRetires [] p b.gen (b.retireTo p).gen := by
  refine ⟨⟨?_, fun r _ => by simp, fun n hn => ?_⟩, rfl, rfl⟩
  · simp only [Bay.retireTo, Bay.progress, Bay.modGen]; rw [Gen.countRetire_eq]
  · exact csrRd_countRetire _ _ hn

theorem retireWith_gen (b : Bay) (r : Reg) (v : Word) :
    genRetires [r] (b.gen.pc + 4) b.gen (b.retireWith r v).gen ∧ (b.retireWith r v).gen.rd r = result r v := by
  have h := genRetires_retireTo (b.modGen fun g => g.wr r v) (b.gen.pc + 4)
  obtain ⟨⟨h1, h2, h3⟩, h4, h5⟩ := h
  have e : b.retireWith r v = (b.modGen fun g => g.wr r v).retireTo (b.gen.pc + 4) := by
    simp [Bay.retireWith, Bay.retire, Bay.modGen]
  rw [e]
  refine ⟨⟨⟨?_, fun k hk => ?_, fun n hn => ?_⟩, h4, h5⟩, ?_⟩
  · rw [h1]; simp only [Bay.modGen, Gen.wr]; split <;> rfl
  · rw [h2 k (by simp)]; simp only [Bay.modGen, Gen.rd_wr]
    simp only [List.mem_singleton] at hk
    simp only [hk, if_false, ite_eq_right_iff]; rintro rfl; simp [Gen.rd]
  · rw [h3 n hn]; simp
  · rw [h2 r (by simp)]; simp only [Bay.modGen, Gen.rd_wr, result]; split <;> simp

theorem onlyGen_retireWith (b : Bay) (r : Reg) (v : Word) : onlyGen b (b.retireWith r v) := by
  simp [onlyGen, Bay.retireWith, Bay.retire, Bay.retireTo, Bay.progress, Bay.modGen]

theorem retires_with (s : State) (r : Reg) (v : Word) :
    retires [r] ((s.bay s.cur).gen.pc + 4) s (s.modBay s.cur fun b => b.retireWith r v) := by
  refine ⟨onlyBay_modBay .., ?_, ?_⟩
  · simpa using onlyGen_retireWith ..
  · simpa using (retireWith_gen ..).1

theorem retires_plain (s : State) (p : Word) : retires [] p s (s.modBay s.cur fun b => b.retireTo p) := by
  refine ⟨onlyBay_modBay .., ?_, ?_⟩
  · simpa using onlyGen_retireTo ..
  · simpa using genRetires_retireTo ..

/-- An instruction whose meaning is to retire with a result completes. -/
theorem completes_with {i : Instr} {s : State} {rd : Reg} (f : Bay → Word)
    (h : exec i s = onCur s fun b => b.retireWith rd (f b)) :
    Completes i s fun t => retires [rd] ((s.bay s.cur).gen.pc + 4) s t ∧
      (t.bay s.cur).gen.rd rd = result rd (f (s.bay s.cur)) :=
  ⟨s.modBay s.cur fun b => b.retireWith rd (f b), h, retires_with s rd (f (s.bay s.cur)), by
    simpa using (retireWith_gen ..).2⟩

/-- So does one that only moves the pc. -/
theorem completes_plain {i : Instr} {s : State} (h : exec i s = onCur s Bay.retire) :
    Completes i s fun t => retires [] ((s.bay s.cur).gen.pc + 4) s t :=
  ⟨s.modBay s.cur Bay.retire, h, retires_plain s ((s.bay s.cur).gen.pc + 4)⟩

/-! ### Exceptions -/

/-- The S-mode entry. -/
theorem trapS_spec (g : Gen) (cause : Nat) (tval : Word) :
    let h := g.trapS false cause tval
    h.csrRd 0x141 = g.pc ∧ h.csrRd 0x142 = BitVec.ofNat 64 cause ∧
        h.csrRd 0x143 = tval ∧ (h.csrRd 0x300).getLsbD 8 = decide (g.mode ≠ 0) ∧
        (h.csrRd 0x300).getLsbD 5 = (g.csrRd 0x300).getLsbD 1 ∧ (h.csrRd 0x300).getLsbD 1 = false ∧
        (∀ k, k ∉ statusBits → (h.csrRd 0x300).getLsbD k = (g.csrRd 0x300).getLsbD k) ∧
        ∀ n, n ∉ [0x300, 0x141, 0x142, 0x143] → h.csrRd n = g.csrRd n := by
  simp only [Gen.trapS, Gen.csrRd, Gen.csrWr, Tab.get_put]
  refine ⟨rfl, by simp [causeWord], rfl, ?_, ?_, ?_, fun k hk => ?_, fun n hn => ?_⟩
  · simp only [Nat.reduceEqDiff, if_true, if_false]
    simp [getElem_setBits]; split <;> simp_all
  · simp [getElem_setBits]
  · simp [getElem_setBits]
  · simp only [statusBits, List.mem_cons, List.not_mem_nil, or_false, not_or] at hk
    rw [if_neg (by decide), if_neg (by decide), if_neg (by decide), if_pos trivial,
      getLsbD_setBits_ne _ _ _ _ _ (by omega), getLsbD_setBits_ne _ _ _ _ _ (by omega),
      getLsbD_setBits_ne _ _ _ _ _ (by omega)]
  · simp only [List.mem_cons, List.not_mem_nil, or_false, not_or] at hn
    simp [hn]

/-- The M-mode entry. -/
theorem trapM_spec (g : Gen) (cause : Nat) (tval : Word) :
    let h := g.trapM false cause tval
    h.csrRd 0x341 = g.pc ∧ h.csrRd 0x342 = BitVec.ofNat 64 cause ∧
        h.csrRd 0x343 = tval ∧ (h.csrRd 0x300).extractLsb' 11 2 = g.mode ∧
        (h.csrRd 0x300).getLsbD 7 = (g.csrRd 0x300).getLsbD 3 ∧ (h.csrRd 0x300).getLsbD 3 = false ∧
        (∀ k, k ∉ [3, 7, 11, 12] → (h.csrRd 0x300).getLsbD k = (g.csrRd 0x300).getLsbD k) ∧
        ∀ n, n ∉ [0x300, 0x341, 0x342, 0x343] → h.csrRd n = g.csrRd n := by
  simp only [Gen.trapM, Gen.csrRd, Gen.csrWr, Tab.get_put]
  refine ⟨rfl, by simp [causeWord], rfl, ?_, ?_, ?_, fun k hk => ?_, fun n hn => ?_⟩
  · apply BitVec.eq_of_getLsbD_eq
    intro k hk
    have : k = 0 ∨ k = 1 := by omega
    rcases this with rfl | rfl <;> simp [getElem_setBits, zext]
  · simp [getElem_setBits]
  · simp [getElem_setBits]
  · simp only [List.mem_cons, List.not_mem_nil, or_false, not_or] at hk
    have h1 : k < 11 ∨ 11 + 2 ≤ k := by omega
    rw [if_neg (by decide), if_neg (by decide), if_neg (by decide), if_pos trivial,
      getLsbD_setBits_ne _ _ _ _ _ h1, getLsbD_setBits_ne _ _ _ _ _ (by omega),
      getLsbD_setBits_ne _ _ _ _ _ (by omega)]
  · simp only [List.mem_cons, List.not_mem_nil, or_false, not_or] at hn
    simp [hn]

theorem trapEntered_trap (g : Gen) (cause : Nat) (tval : Word) : trapEntered cause tval g (g.trap cause tval) := by
  unfold trapEntered Gen.trap
  by_cases h : g.mode ≠ 3 ∧ (g.csrRd 0x302).getLsbD cause = true
  · have h' : (g.mode != 3 && (g.csrRd 0x302).getLsbD cause) = true := by simpa using h
    rw [if_pos h, h', if_pos rfl]
    exact ⟨by simp [Gen.trapS, Gen.csrWr]; exact fun e => absurd e h.1, rfl, by simp [Gen.trapS, trapTarget, Gen.csrRd_csrWr], trapS_spec g cause tval⟩
  · have h' : (g.mode != 3 && (g.csrRd 0x302).getLsbD cause) = false := by
      simp only [Bool.and_eq_false_iff, bne_eq_false_iff_eq]
      simp only [not_and] at h
      by_cases hm : g.mode = 3
      · exact .inl hm
      · exact .inr (by simpa using h hm)
    rw [if_neg h, h', if_neg (by decide)]
    exact ⟨by simp only [Gen.trapM, Gen.csrWr, cBreak], rfl, by simp [Gen.trapM, trapTarget, Gen.csrRd_csrWr], trapM_spec g cause tval⟩

/-- A generator fault is the exception of R141 and R143. -/
theorem traps_fault (s : State) (cause : Nat) (tval : Word) :
    traps cause tval s (s.modBay s.cur fun b => b.fault cause tval) := by
  refine ⟨onlyBay_modBay .., ?_, ?_⟩
  · simp [Bay.fault, Bay.modGen]
  · simpa [Bay.fault, Bay.modGen] using trapEntered_trap ..

/-- An instruction whose meaning is an exception completes with it. -/
theorem completes_fault {i : Instr} {s : State} {cause : Nat} {tval : Word}
    (h : exec i s = onCur s fun b => b.fault cause tval) : Completes i s (traps cause tval s) :=
  ⟨_, h, traps_fault s cause tval⟩

end Sys2Proof.Machine
end

