-- ==== Sys2Proof/Laws/Homes.lean ====
section
/-! SUPPORT. What a store at a home and an atomic step leave: everything but memory and the host's memory. -/
namespace Sys2Proof.Machine

/-- Nothing changes but the homes' bytes. -/
def onlyHomes (s t : State) : Prop := t = { s with mem := t.mem, host := t.host }

theorem onlyHomes.refl (s : State) : onlyHomes s s := rfl
theorem onlyHomes.trans {s t u : State} (h : onlyHomes s t) (k : onlyHomes t u) : onlyHomes s u := by
  unfold onlyHomes at *; rw [k, h]
theorem onlyHomes_foldl {α : Type} (f : State → α → State) (h : ∀ s a, onlyHomes s (f s a)) (l : List α) (s : State) :
    onlyHomes s (l.foldl f s) := by
  induction l generalizing s with
  | nil => exact .refl s
  | cons a t ih => exact (h s a).trans (ih _)

theorem onlyHomes_homeStore (s : State) (c : CtxNo) (b : BufId) (off : Nat) (bs : List Byte) :
    onlyHomes s (s.homeStore c b off bs) := by unfold State.homeStore; split <;> rfl
theorem onlyHomes_atomic (s : State) (c : CtxNo) (b : BufId) (off n : Nat) (f : Nat → Nat) :
    onlyHomes s (s.atomic c b off n f).2 := onlyHomes_homeStore ..
end Sys2Proof.Machine
end

