-- ==== Sys2Proof/Laws/Traffic.lean ====
section
/-! SUPPORT. What a counter write-back and the arrival of a copy's requests at their homes leave: nothing but memory, caches,
lofts and the lists of what is on its way; and after State.settle nothing of the named senders is on its way. -/
namespace Sys2Proof.Machine

theorem onlyTraffic.refl (s : State) : onlyTraffic s s := rfl
theorem onlyTraffic.trans {s t u : State} (h : onlyTraffic s t) (k : onlyTraffic t u) : onlyTraffic s u := by
  unfold onlyTraffic at *; rw [k, h]
theorem onlyHomes.traffic {s t : State} (h : onlyHomes s t) : onlyTraffic s t := by unfold onlyHomes onlyTraffic at *; rw [h]

/-- Memory accesses outside the bays: nothing changes but caches, homes and lofts. -/
def onlyAccess (s t : State) : Prop := t = { s with sheds := t.sheds, mem := t.mem, host := t.host, lofts := t.lofts }

theorem onlyAccess.refl (s : State) : onlyAccess s s := rfl
theorem onlyAccess.trans {s t u : State} (h : onlyAccess s t) (k : onlyAccess t u) : onlyAccess s u := by
  unfold onlyAccess at *; rw [k, h]
theorem onlyHomes.access {s t : State} (h : onlyHomes s t) : onlyAccess s t := by unfold onlyHomes onlyAccess at *; rw [h]

theorem onlyAccess_countLoft (s : State) (c : CtxNo) (b : BufId) (off cls k n : Nat) :
    onlyAccess s (s.countLoft c b off cls k n) := by
  unfold State.countLoft; split
  · exact .refl s
  · split <;> rfl
theorem onlyAccess_modShed (s : State) (n : BitVec 4) (f : Shed → Shed) : onlyAccess s (s.modShed n f) := rfl
theorem onlyAccess_flushBytes (c : CtxNo) (b : BufId) (off : Nat) (l : Line) (n : Nat) : ∀ s : State,
    onlyAccess s (s.flushBytes c b off l n) := by
  induction n with
  | zero => exact fun s => .refl s
  | succ n ih =>
    intro s; unfold State.flushBytes
    split
    · exact (ih s).trans (onlyHomes_homeStore ..).access
    · exact ih s
theorem onlyAccess_dropLine (s : State) (n : BitVec 4) (k : Nat) : onlyAccess s (s.dropLine n k) := by
  refine .trans (t := s.writeBack n k) ?_ (onlyAccess_modShed ..)
  unfold State.writeBack; split
  · split
    · exact .refl s
    · dsimp only; split
      · exact onlyAccess_modShed ..
      · exact ((onlyAccess_flushBytes ..).trans (onlyAccess_countLoft ..)).trans (onlyAccess_modShed ..)
  · exact .refl s
theorem onlyAccess_amo (s : State) (n : BitVec 4) (cls : Nat) (c : CtxNo) (b : BufId) (off w : Nat) (f : Nat → Nat) :
    onlyAccess s (s.amo n cls c b off w f).2 :=
  ((onlyAccess_dropLine ..).trans (onlyAccess_countLoft ..)).trans (onlyHomes_atomic ..).access
theorem onlyAccess_foldl {α : Type} (f : State → α → State) (h : ∀ s a, onlyAccess s (f s a)) (l : List α) (s : State) :
    onlyAccess s (l.foldl f s) := by
  induction l generalizing s with
  | nil => exact .refl s
  | cons a t ih => exact (h s a).trans (ih _)
theorem onlyAccess_counterOne (s : State) (n : BitVec 4) (c : CtxNo) (b : BufId) (off : Nat) (d : W32) :
    onlyAccess s (s.counterOne n c b off d) := by
  unfold State.counterOne; split
  · exact .refl s
  · exact (onlyAccess_dropLine ..).trans (onlyHomes_atomic ..).access

/-- Writing the counter cache back is memory accesses, and empties the bay's counter cache (R138). -/
theorem flushCounters_spec (s : State) (b : BayNo) :
    ∃ u, onlyAccess s u ∧ s.flushCounters b = u.modBay b fun y => { y with counters := [] } :=
  ⟨_, onlyAccess_foldl _ (fun s _ => onlyAccess_counterOne s ..) _ s, rfl⟩

theorem onlyAccess_redLines (s : State) (r : Red) : onlyAccess s (s.redLines r) := by
  unfold State.redLines; dsimp only; split
  · exact onlyAccess_dropLine ..
  · exact (onlyAccess_dropLine ..).trans (onlyAccess_dropLine ..)

/-- Only traffic is felt, and the lists of values and merges on their way stay. -/
def redKept (s t : State) : Prop := onlyTraffic s t ∧ t.reds = s.reds ∧ t.sides = s.sides

theorem redKept.refl (s : State) : redKept s s := ⟨.refl s, rfl, rfl⟩
theorem redKept.trans {s t u : State} (h : redKept s t) (k : redKept t u) : redKept s u :=
  ⟨h.1.trans k.1, k.2.1.trans h.2.1, k.2.2.trans h.2.2⟩
theorem onlyAccess.red {s t : State} (h : onlyAccess s t) : redKept s t := by
  unfold onlyAccess at h
  exact ⟨by unfold onlyTraffic; rw [h], by rw [h], by rw [h]⟩
theorem redKept_afterEng (s : State) (bn : BayNo) (c : CtxNo) (b : BufId) (off n cls : Nat) (rd wr : Bool) :
    redKept s (s.afterEng bn c b off n cls rd wr) := by
  unfold State.afterEng; split
  · exact ⟨rfl, rfl, rfl⟩
  · exact .refl s
theorem redKept_redOne (s : State) (r : Red) : redKept s (s.redOne r) := by
  unfold State.redOne
  extract_lets u w cls old x s1 s2
  have h1 : redKept s s1 :=
    ((onlyAccess_redLines s r).trans ((onlyHomes_homeStore ..).access.trans (onlyAccess_countLoft ..))).red
  have h2 : redKept s s2 := by
    refine h1.trans ?_
    simp only [s2]
    split
    · exact ((onlyAccess_dropLine ..).trans (onlyHomes_atomic ..).access).red.trans (redKept_afterEng ..)
    · exact .refl s1
  split
  · exact h2.trans (.trans (t := { s2 with hists := s2.hists ++ _ }) ⟨rfl, rfl, rfl⟩ (redKept_afterEng ..))
  · exact h2

/-- Only traffic is felt, and all lists of what is on its way stay. -/
def listsKept (s t : State) : Prop := redKept s t ∧ t.hists = s.hists

theorem listsKept.refl (s : State) : listsKept s s := ⟨.refl s, rfl⟩
theorem listsKept.trans {s t u : State} (h : listsKept s t) (k : listsKept t u) : listsKept s u :=
  ⟨h.1.trans k.1, k.2.trans h.2⟩
theorem onlyAccess.lists {s t : State} (h : onlyAccess s t) : listsKept s t :=
  ⟨h.red, by unfold onlyAccess at h; rw [h]⟩
theorem listsKept_modBay (s : State) (b : BayNo) (f : Bay → Bay) : listsKept s (s.modBay b f) := ⟨⟨rfl, rfl, rfl⟩, rfl⟩
theorem listsKept_histOne (s : State) (h : Hist) : listsKept s (s.histOne h) := (onlyAccess_amo ..).lists
theorem listsKept_sideOne (s : State) (d : Side) : listsKept s (s.sideOne d) := (onlyAccess_amo ..).lists

theorem redKept_foldl {α : Type} (f : State → α → State) (h : ∀ s a, redKept s (f s a)) (l : List α) (s : State) :
    redKept s (l.foldl f s) := by
  induction l generalizing s with
  | nil => exact .refl s
  | cons a t ih => exact (h s a).trans (ih _)
theorem listsKept_foldl {α : Type} (f : State → α → State) (h : ∀ s a, listsKept s (f s a)) (l : List α) (s : State) :
    listsKept s (l.foldl f s) := by
  induction l generalizing s with
  | nil => exact .refl s
  | cons a t ih => exact (h s a).trans (ih _)

/-- Everything that State.settle can do: only traffic is felt, and nothing of the named senders is on its way afterwards
(R103, R107, R188). -/
theorem settle_spec (s : State) (p : Sender → Bool) : onlyTraffic s (s.settle p) ∧ arrivedAll p (s.settle p) := by
  unfold State.settle
  extract_lets s1 s2 s3 s4 s5
  have r1 : listsKept { s with reds := s.reds.filter fun r => !(p r.src && s.redLost r) } s1 :=
    listsKept_foldl _ (fun _ _ => listsKept_modBay ..) _ _
  have r2 : redKept { s1 with reds := s1.reds.filter fun r => !p r.src } s2 := redKept_foldl _ redKept_redOne _ _
  have r3 : listsKept { s2 with hists := s2.hists.filter fun r => !(p r.src && s2.histLost r) } s3 :=
    listsKept_foldl _ (fun _ _ => listsKept_modBay ..) _ _
  have r4 : listsKept { s3 with hists := s3.hists.filter fun r => !p r.src } s4 := listsKept_foldl _ listsKept_histOne _ _
  have r5 : listsKept { s4 with sides := s4.sides.filter fun r => !(p r.src && s4.sideLost r) } s5 :=
    listsKept_foldl _ (fun _ _ => listsKept_modBay ..) _ _
  have r6 := listsKept_foldl State.sideOne listsKept_sideOne (s5.sides.filter fun r => p r.src)
    { s5 with sides := s5.sides.filter fun r => !p r.src }
  generalize List.foldl State.sideOne _ _ = t at r6 ⊢
  obtain ⟨⟨a1, b1, c1⟩, d1⟩ := r1
  obtain ⟨a2, b2, c2⟩ := r2
  obtain ⟨⟨a3, b3, c3⟩, d3⟩ := r3
  obtain ⟨⟨a4, b4, c4⟩, d4⟩ := r4
  obtain ⟨⟨a5, b5, c5⟩, d5⟩ := r5
  obtain ⟨⟨a6, b6, c6⟩, d6⟩ := r6
  refine ⟨?_, ?_, ?_, ?_⟩
  · unfold onlyTraffic at *; rw [a6, a5, a4, a3, a2, a1]
  · rw [b6]; simp only; rw [b5]; simp only; rw [b4]; simp only; rw [b3]; simp only; rw [b2]; simp
  · rw [d6]; simp only; rw [d5]; simp only; rw [d4]; simp
  · rw [c6]; simp

end Sys2Proof.Machine
end

