-- ==== Sys2Proof/Tests/Slice0.lean ====
section
/-! SUPPORT. Tests: words that the spec prints, with the instructions it prints them for; ill-formed terms, one for each
check of WellFormed; values that the spec works out; and for every statement of Certificates/Slice0/Obligations.lean with hypotheses a state and
operands that meet them, clause by clause, at the values next to their bounds. -/
namespace Sys2Proof.Machine

theorem test_reset_ok : State.reset.ok = true := by decide

/-! ### Decoding: words that the spec prints -/

/-- Words of chapters 4 and 6 beside those of Obligations.words_decode. -/
theorem test_decode_generator :
    ∀ e ∈ [(0x0002805B#32, Instr.sbC 0 5 0 0), (0x00000013#32, .integerAlu (.ri .addi 0 0 0)), (0x02A5A513#32, .integerAlu (.ri .slti 10 11 42)),
      (0x40C5D533#32, .integerAlu (.rr .sra 10 11 12)), (0x0000A503#32, .rv64Load .w 10 1 0), (0x00A0B423#32, .rv64Store .d 10 1 8),
      (0x00C5B52F#32, .rv64Amo .add 1 0 0 10 11 12), (0xFFDFF06F#32, .jumpBranch (.jal 0 0xFFFFE)),
      (0x00B50463#32, .jumpBranch (.br .beq 10 11 4)), (0x30200073#32, .xret 1), (0x80051573#32, .csrAccess .rw 10 10 0x800),
      (0x0FF0000F#32, .fence 0 15 15 0 0), (0x0000100F#32, .fenceI 0 0 0), (0x000440FB#32, .fenceCm 2 1)],
      decodeGen e.1 = .ok e.2 := by decide

/-- The encodings of R156, R173 and R182. -/
theorem test_decode_tiles_caps :
    ∀ e ∈ [(0x0205200B#32, Instr.tfree 10), (0x0405A50B#32, .tinfo 10 11), (0x06B5200B#32, .twait 10 11), (0x0805A50B#32, .tstat 10 11),
      (0x00C5B50B#32, .capNew 10 11 12), (0x02B5300B#32, .capShare 10 11), (0x04B5300B#32, .capXfer 10 11), (0x0605300B#32, .capDrop 10),
      (0x08B5300B#32, .capNarrow 10 11), (0x0A05B50B#32, .capInfo 10 11), (0x10B5300B#32, .tdSet 10 11), (0x1205B50B#32, .tdGet 10 11),
      (0x14B5300B#32, .tdBind 10 11)], decodeGen e.1 = .ok e.2 := by decide

/-- The encodings of R211, R218 and R228. -/
theorem test_decode_ordering :
    ∀ e ∈ [(0x00B5400B#32, Instr.barInit 10 11), (0x0205400B#32, .barArrive 10), (0x08B5400B#32, .ringPut 10 11), (0x0C05400B#32, .ringDone 10),
      (0x00C5F50B#32, .amoPkmin 0 0 10 11 12), (0x08C5F50B#32, .amoPkmax 0 0 10 11 12), (0x0CC5F50B#32, .amoPkmax 1 0 10 11 12)],
      decodeGen e.1 = .ok e.2 := by decide

/-- The encodings of R362 and R380. -/
theorem test_decode_tasks :
    ∀ e ∈ [(0x0205500B#32, Instr.taskDec 10), (0x0400500B#32, .taskEnd), (0x0600500B#32, .taskAbort), (0x0805D50B#32, .taskArg 10 11),
      (0x0A00550B#32, .taskId 10), (0x0000600B#32, .bayResume), (0x0405E50B#32, .qstat 10 11)], decodeGen e.1 = .ok e.2 := by decide

/-- The examples of R231. -/
theorem test_decode_sync :
    ∀ e ∈ [(0x02080003#32, Instr.syArrive 1 3), (0x04700000#32, .syRdv 14), (0x06700002#32, .sySlip 14 2), (0x07200000#32, .syRound 4)],
      decodeWord e.1 [] = .ok e.2 := by decide

/-- R252, R258, R262 and R266. -/
theorem test_decode_matrix :
    ∀ e ∈ [(0x21400102#32, [0xC4400010#32], Instr.mxMma { fa := 1, fb := 0, so := 0, sat := 0, ga2 := 0, gb2 := 0, g := 16 } 0 1 0 1 2),
      (0x23400304#32, [0xC6A80048#32, 0xC4389480#32], .mxMmh { fa := 10, fb := 10, so := 0, sat := 0, ga2 := 0, gb2 := 0, g := 72 }
        { ow1 := 7, ww1 := 9, ry1 := 2, rx1 := 2, dil1 := 0 } 0 1 0 3 4),
      (0x27800009#32, [0xC6A80000#32], .mxDrain 10 5 0 1 0 0 9), (0x29000007#32, [], .mxSnap 0 7)], decodeWord e.1 e.2.1 = .ok e.2.2 := by
  decide

/-- R287, R295 and R300. -/
theorem test_decode_vector :
    ∀ e ∈ [(0x5C0203FF#32, [0xC80007FF#32, 0xCBFC0400#32], Instr.vxSlot 0 2 3 2047 0xFFFF 1024),
      (0x5C840809#32, [0xC8000000#32, 0xC800012C#32], .vxSeg 0 4 8 9 0 300), (0x5D000001#32, [], .vxChk 0 1),
      (0x4C0540DA#32, [0xCB000000#32], .vxCvt { s := 0, d := 5, a := 4, t := 13, r := 5, m := 0 } 12),
      (0x490F12C0#32, [], .vxClt { s := 0, d := 15, a := 1, b := 2, t := 12, r := 0, m := 0 }),
      (0x418412C0#32, [], .vxFma { s := 0, d := 4, a := 1, b := 2, t := 12, r := 0, m := 0 }),
      (0x540730C0#32, [], .vxRsum { s := 0, d := 7, a := 3, t := 12, r := 0, m := 0 })], decodeWord e.1 e.2.1 = .ok e.2.2 := by decide

/-- The examples of chapter 9. -/
theorem test_decode_copy :
    ∀ e ∈ [(0x62000000#32, [0xCC000000#32], Instr.cpPad 0 0), (0x6100001F#32, [0xCC000000#32], .cpOrg 0 31 0 0),
      (0x61FFFFFF#32, [0xCC000001#32], .cpOrg 0 0xFFFFFF 0 1), (0x63101403#32, [], .cpIn 1 20 3),
      (0x6004000F#32, [0xCC020001#32], .cpLoop 0 0 1 15 2 1), (0x60280003#32, [0xCC020001#32], .cpLoop 0 1 2 3 2 1)],
      decodeWord e.1 e.2.1 = .ok e.2.2 := by decide

/-- The examples of chapter 10. -/
theorem test_decode_class :
    ∀ e ∈ [(0xA0801514#32, [0xD4586000#32], Instr.kxSpmm { flag := 0, tx := 21, ti := 20, tb := 22, out := 24, rnd := 0, sat := 0 }),
      (0xB0281F1E#32, [0xD4001400#32], .kxSort { kt := 1, desc := 0, ven := 1, tv := 31, tk := 30 } 5 0 0),
      (0xB0281F1E#32, [0xD4001482#32], .kxSort { kt := 1, desc := 0, ven := 1, tv := 31, tk := 30 } 5 32 1)],
      decodeWord e.1 e.2.1 = .ok e.2.2 := by decide

/-- The first packet of the spec's example stream, and a NOP of its self-modifying example (R373). -/
theorem test_decode_packets :
    decodePacket 0x08030000#32 [0#32, 0x4100#32, 20#32] = .ok (.ind { buf := 0x41, off := 0 } 20) ∧
      decodePacket 0x00040000#32 [0#32, 0#32, 0#32, 0#32] = .ok (.nop 4) := by decide

/-! ### Ill-formed terms: one for each check of WellFormed -/

theorem test_ill_generator :
    ∀ i ∈ [Instr.bfext 1 1 60 4, .bfins 1 1 63 1, .emits 0 1, .emits 1 0, .emits 3 3, .accrd 5 5 1, .fenceCm 0 2, .fenceCm 1 5,
      .integerAlu (.sh .slliw 1 1 32)], i.wf = false := by decide

theorem test_ill_words :
    ∀ i ∈ [Instr.syArrive 1 96, .syWait 1 127, .syFence 1 5 1,
      .mxMma { fa := 4, fb := 0, so := 0, sat := 0, ga2 := 0, gb2 := 0, g := 1 } 0 0 0 0 0,
      .mxMma { fa := 0, fb := 4, so := 0, sat := 0, ga2 := 0, gb2 := 0, g := 1 } 0 0 0 0 0,
      .mxMma { fa := 15, fb := 0, so := 0, sat := 0, ga2 := 0, gb2 := 0, g := 1 } 0 0 0 0 0,
      .mxMma { fa := 0, fb := 0, so := 0, sat := 0, ga2 := 0, gb2 := 0, g := 0 } 0 0 0 0 0,
      .mxMmw { fa := 0, fb := 0, so := 0, sat := 0, ga2 := 0, gb2 := 0, g := 1 } 0 0 0 15 0,
      .mxMmw { fa := 0, fb := 0, so := 0, sat := 0, ga2 := 0, gb2 := 1, g := 1 } 0 0 0 0 0,
      .mxMmh { fa := 0, fb := 0, so := 0, sat := 0, ga2 := 0, gb2 := 0, g := 1 } { ow1 := 1, ww1 := 0, ry1 := 0, rx1 := 0, dil1 := 0 } 0 0 0 0 0,
      .vxSlot 0 0 0 0 1 0, .vxSlot 0 0 0 0 0 1, .vxSeg 0 0 0 0 0 0, .vxSet 0 0 0x10000 2 0 0,
      .vxHist { s := 0, d := 0, a := 0, t := 12, r := 0, m := 0 } 0 0 0,
      .mxMmh { fa := 0, fb := 0, so := 0, sat := 0, ga2 := 0, gb2 := 0, g := 1 } { ow1 := 0, ww1 := 0, ry1 := 7, rx1 := 0, dil1 := 0 } 0 0 0 0 0,
      .mxMmh { fa := 0, fb := 0, so := 0, sat := 0, ga2 := 0, gb2 := 0, g := 1 } { ow1 := 0, ww1 := 0, ry1 := 0, rx1 := 7, dil1 := 0 } 0 0 0 0 0,
      .mxLdw 0 0 0 0 15 0, .mxDrain 15 0 0 0 0 0 0, .mxDrain 7 0 0 0 0 0 0, .mxDrain 12 7 0 0 0 0 0, .mxDrain 12 0 0 0 0 15 0,
      .mxRq { osgn := 0, rnd := 7, z := 0, oz := 0, tm := 0, ts := 0, rsen := 0, set := 0, zaft := 0, tr := 0, td := 0 },
      .vxAdd { s := 0, d := 0, a := 0, b := 0, t := 15, r := 0, m := 0 }, .vxAdd { s := 0, d := 0, a := 0, b := 0, t := 0, r := 7, m := 0 },
      .vxMov { s := 0, d := 0, a := 0, t := 15, r := 0, m := 0 }, .vxCvt { s := 0, d := 0, a := 0, t := 0, r := 0, m := 0 } 15,
      .vxSet 0 0 0 15 0 0, .vxHist { s := 0, d := 0, a := 0, t := 0, r := 7, m := 0 } 0 0 0, .cpIn 15 0 0, .cpT2t 0 0 0 0 7,
      .cpGath 0 15 0 0 0, .cpRed 0 0 0 0 0 7 0 0, .cpPeer 0 15 0 0 0 0, .cpDrain 0 5, .cpDrainCin 15 0,
      .kxSpmm { flag := 0, tx := 0, ti := 0, tb := 0, out := 0, rnd := 7, sat := 0 }, .kxSpadd 0 0 0 0 0 7 0,
      .kxSort { kt := 0, desc := 0, ven := 0, tv := 1, tk := 0 } 1 0 0, .kxCmpct 0 0 1 0 1 0 0, .kxUniq 0 0 1 0], i.wf = false := by decide

theorem test_ill_packets :
    ∀ i ∈ [Instr.ind { buf := 0, off := 0 } 0, .pred 7 { buf := 0, off := 0 } 0 1, .pred 0 { buf := 0, off := 0 } 0 0,
      .wait 7 { buf := 0, off := 0 } 0, .write { buf := 0, off := 0 } [], .signal 3 0 { buf := 0, off := 0 } 0,
      .dma { buf := 0, off := 0 } { buf := 0, off := 0 } 0, .dma { buf := 0, off := 0 } { buf := 0, off := 0 } 6], i.wf = false := by decide

/-! ### Values that the spec works out -/

/-- R157: a 64 × 128 BF16 tile keyed to d17 at origin row 64 takes 256 lines. -/
theorem test_talloc_tile :
    let t := tallocTile 0x0A03F07F 0x4011000040000000 0
    t.fmt = 10 ∧ t.rows = 64 ∧ t.cols = 128 ∧ t.lines = 256 ∧ t.level = 0 ∧ t.keyv = 1 ∧ t.td = 17 ∧ t.org 1 = 64 ∧ t.org 0 = 0 := by
  decide

/-- R229: the keys of weights 2.5 and −1.0, and the order of two edges of equal weight. -/
theorem test_pkkey :
    pkkey 0x4020000000000007 / 2 ^ 32 = 0xC0200000 ∧ pkkey 0xBF80000000000028 / 2 ^ 32 = 0x407FFFFF ∧
      pkkey 0x4020000000000003 < pkkey 0x4020000000000007 := by decide

set_option maxRecDepth 8192
set_option exponentiation.threshold 600

/-! ### Witnesses: states and operands that meet the hypotheses of the statements -/

/-- A bay that runs task 0 in a mode, with registers x, capability 0 to buffer 2 with every right, 1 to it with none, and 3 to
host-resident buffer 3. -/
def wBay (m : BitVec 2) (x : Tab Word) : Bay :=
  { task := some 0, code := 1, csize := 4096, caps := [(0, { buf := 2, rights := 15 }), (1, { buf := 2 }), (3, { buf := 3, rights := 15 })],
    gen := { csr := resetCsr, mode := m, pc := 0xFC00000000000000, x := x } }

/-- The package with bay b as given and current, one running task and three buffers. -/
def wState (y : Bay) (b : BayNo := 0) : State :=
  { die := Die.reset, cur := b, bays := [(b.toNat, y)],
    yard := { slots := [(0, { state := .running, bay := b })], ctxs := [(0, { valid := true })],
              bufs := [(1, { size := 4096 }), (2, { size := 65536 }), (3, { size := 65536, host := some 0x10000 })] } }

/-- A watchpoint with ACT 0 on the first 4 KiB of buffer 2. -/
def wWatch (s : State) : State :=
  { s with yard := { s.yard with dbg := { wp := [BitVec.ofNat 256 (2 ^ 255 + 2 ^ 253 + 2 ^ 252 + 2 * 2 ^ 216 + 4096 * 2 ^ 128)] } } }

/-- The outcome is a next state. -/
def goesOn : Out → Bool
  | .next _ => true
  | _ => false

/-- The outcome is a next state with p. -/
def leads (o : Out) (p : State → Bool) : Bool :=
  match o with
  | .next t => p t
  | _ => false

theorem witness_alu : (Instr.bfext 1 2 60 3).wf = true ∧ (Instr.bfext 1 2 0 63).wf = true ∧ (Instr.bfins 1 2 60 3).wf = true ∧
    (7 : Word) ≠ 0 ∧ aluRR .rem 7 2 ≠ 0 ∧ (1 : Word).setWidth 32 = (0x100000001 : Word).setWidth 32 ∧ 0 < (aluU .clz 1).toNat ∧
    0 < (aluU .ctz 2).toNat := by decide

theorem witness_csr :
    let u := wState (wBay 0 [(10, 15), (11, 3)])
    let v := wState (wBay 1 [(10, 15)])
    u.csrRead 0 0x800 = some 0 ∧ csrNewValue .rw 0 ((u.bay 0).gen.rd 10) 10 = some 15 ∧ 0x800 ∈ zazinCsrs ∧
      goesOn (exec (.csrAccess .rw 5 10 0x800) u) = true ∧ csrNewValue .rw 0 ((u.bay 0).gen.rd 11) 11 = some 3 ∧
      (0x800#12).extractLsb' 10 2 ≠ 3 ∧ ((0x800#12).extractLsb' 8 2).toNat ≤ 0 ∧
      u.csrRead 0 0xCC0 ≠ none ∧ csrNewValue .rs 0 0 0 = none ∧ v.csrRead 0 0x5C8 ≠ none ∧
      ((0x5C8#12).extractLsb' 8 2).toNat ≤ 1 := by decide

theorem witness_exceptions :
    let u := wState (wBay 0 [])
    u.csrRead 0 0x7FF = none ∧ (u.bay 0).gen.mode.toNat < ((0x300#12).extractLsb' 8 2).toNat ∧ (0xCC0#12).extractLsb' 10 2 = 3 ∧
      u.csrRead 0 0xCC0 ≠ none ∧ csrNewValue .rw 0 7 5 = some 7 ∧ classOk (.lbC 1 2 0 15) (u.bay 0).gen = false ∧
      (u.bay 0).gen.mode = 0 ∧ ((wState (wBay 1 [])).bay 0).gen.mode = 1 ∧ ((wState (wBay 3 [])).bay 0).gen.mode = 3 := by decide

theorem witness_xret :
    let y : Bay := { wBay 1 [] with gen := { mode := 1, csr := [(0x300, 0x400000)] } }
    (wBay 1 []).gen.mode = 1 ∧ ((wBay 1 []).gen.csrRd 0x300).getLsbD 22 = false ∧ y.gen.mode = 1 ∧ (y.gen.csrRd 0x300).getLsbD 22 = true ∧
      (wBay 3 []).gen.mode = 3 ∧ (wBay 0 []).gen.mode = 0 := by decide

theorem witness_jumps :
    let s := wState (wBay 0 [(1, 0xFC00000000000FFC), (2, 0xFC00000000000002)])
    let g := (s.bay 0).gen
    s.pcOk (s.bay 0) (g.pc + 4) = true ∧ (g.pc + ((2#20 ++ 0#1).signExtend 64)) = g.pc + 4 ∧ s.pcOk (s.bay 0) (g.rd 1) = true ∧
      (g.rd 1).toNat % 4 = 0 ∧ s.pcOk (s.bay 0) (g.pc + (4#12 ++ 0#1).signExtend 64) = true ∧ branchTaken .beq (g.rd 3) (g.rd 4) = true ∧
      branchTaken .bne (g.rd 3) (g.rd 4) = false ∧ (g.pc + (1#20 ++ 0#1).signExtend 64).toNat % 4 ≠ 0 ∧
      ((g.rd 2 + (0#12).signExtend 64) &&& ~~~1#64).toNat % 4 ≠ 0 ∧ (g.pc + (1#12 ++ 0#1).signExtend 64).toNat % 4 ≠ 0 := by decide

/-- Each check at the values next to its bound; buffer 4 is imported from a package out of reach. -/
theorem witness_address_checks :
    let y := { wBay 0 [] with caps := [(0, { buf := 2, rights := 15 }), (1, { buf := 2 }), (3, { buf := 3, rights := 15 }), (4, { buf := 4, rights := 1 })] }
    let s := { wState y with remote := [5], yard := { (wState y).yard with bufs := (wState y).yard.bufs.put 4 { size := 64, imp := some (5, 0, 9) } } }
    (0x0001000000000000 : Word).extractLsb' 48 10 ≠ 0 ∧ (s.bay 0).slotCap 5 = none ∧ (s.bay 0).slotCap 0 = some (some 2, 15) ∧
      (s.bay 0).slotCap 1 = some (some 2, 0) ∧ (s.bay 0).slotCap 63 = some (some 1, 1) ∧ s.bufSize 0 2 < 65529 + 8 ∧
      65528 + 8 ≤ s.bufSize 0 2 ∧ 65528 % 8 = 0 ∧ 65524 + 8 ≤ s.bufSize 0 2 ∧ 65524 % 8 ≠ 0 ∧
      (s.bay 0).slotCap 4 = some (some 4, 1) ∧ 56 + 8 ≤ s.bufSize 0 4 ∧ s.unreachable 0 4 = true ∧ s.unreachable 0 2 = false ∧
      (s.bay 0).slotCap 3 = some (some 3, 15) ∧ s.isHost 0 3 = true ∧ s.isHost 0 2 = false := by decide

/-- A load of the last doubleword of a buffer, of the firmware store, of a slot that is empty, and of a watched address. -/
theorem witness_loads :
    let s := wState (wBay 0 [(1, 65528), (3, 0x2000000000000000)])
    let f := wState (wBay 3 [(1, 0xFC00000000000100)])
    loadForm (.rv64Load .d 10 1 0) (s.bay 0).gen = some (.d, 10, 65528, 0) ∧ classOk (.rv64Load .d 10 1 0) (s.bay 0).gen = true ∧
      loadForm (.lwC 10 1 4 3) (s.bay 0).gen = some (.w, 10, 65532, 3) ∧ s.checkAddr 0 .load 65528 8 = .ok (.buf 2 65528) ∧
      s.watchGen 0 2 65528 8 0 .load = none ∧ f.checkAddr 0 .load ((f.bay 0).gen.rd 1) 8 = .ok (.fw 0x100) ∧
      s.checkAddr 0 .load ((s.bay 0).gen.rd 3) 8 = .error 24 ∧ (wWatch s).checkAddr 0 .load 4088 8 = .ok (.buf 2 4088) ∧
      (wWatch s).watchGen 0 2 4088 8 0 .load = some false := by decide

/-- A store to the same places, and to host memory. -/
theorem witness_stores :
    let s := wState (wBay 0 [(1, 65528), (2, 0x0C00000000000000), (3, 0x2000000000000000)])
    let f := wState (wBay 3 [(1, 0xFC00000000000100)])
    storeForm (.sdC 10 1 0 2) (s.bay 0).gen = some (.d, 0, 65528, 2) ∧ classOk (.sdC 10 1 0 2) (s.bay 0).gen = true ∧
      storeForm (.rv64Store .b 10 2 0) (s.bay 0).gen = some (.b, 0, 0x0C00000000000000, 0) ∧ s.ok = true ∧ f.ok = true ∧
      s.checkAddr 0 .store 65528 8 = .ok (.buf 2 65528) ∧ s.watchGen 0 2 65528 8 2 .store = none ∧
      s.checkAddr 0 .store 0x0C00000000000000 1 = .ok (.buf 3 0) ∧ s.home 0 3 = .host 0x10000 ∧ s.isHost 0 2 = false ∧
      f.checkAddr 0 .store ((f.bay 0).gen.rd 1) 8 = .ok (.fw 0x100) ∧ s.checkAddr 0 .store ((s.bay 0).gen.rd 3) 8 = .error 24 ∧
      (wWatch s).checkAddr 0 .store 4088 8 = .ok (.buf 2 4088) ∧ (wWatch s).watchGen 0 2 4088 8 2 .store = some false := by decide

theorem witness_shed_cache :
    let l : Line := { data := List.replicate 64 7, dirty := 2, mask := 1 }
    let s := { wState (wBay 0 []) with sheds := [(0, { cache := [(lineKey 0 2 64, l)] })] }
    s.ok = true ∧ (s.shed 0).cache.find? (lineKey 0 2 64) = some l ∧
      s.home (keyCtx (lineKey 0 2 64)) (keyBuf (lineKey 0 2 64)) = .mem (memKey 0 0 2 0) ∧ 120 % 64 + 8 ≤ 64 ∧ (7 : Nat) < 8 := by decide

theorem witness_amos :
    let s := wState (wBay 0 [(1, 65528), (2, 0x2000000000000000)])
    0 < 32 ∧ 2 ^ 32 - 1 < 2 ^ 32 ∧ s.checkAddr 0 .amo ((s.bay 0).gen.rd 1) 8 = .ok (.buf 2 65528) ∧
      s.checkAddr 0 .amo ((s.bay 0).gen.rd 1) 4 = .ok (.buf 2 65528) ∧ s.watchGen 0 2 65528 8 0 .amo = none ∧
      s.watchGen 0 2 65528 4 0 .amo = none ∧ s.home 0 2 = .mem (memKey 0 0 2 0) ∧
      s.checkAddr 0 .amo ((s.bay 0).gen.rd 2) 8 = .error 24 := by decide

theorem witness_fences : (wState (wBay 0 [])).ok = true ∧ (1 : BitVec 15) ≠ 0 ∧ 2 ≤ (2 : BitVec 3).toNat ∧ (4 : BitVec 3).toNat ≤ 4 ∧
    (1 : BitVec 3).toNat ≤ 1 ∧ 5 ≤ (5 : BitVec 3).toNat := by decide

set_option maxRecDepth 4096 in
/-- BBC disabled, refused, on a host-resident buffer, a counter about to be full, and a full counter cache. -/
theorem witness_bbc :
    let on (slot : BitVec 6) : Gen := { (wBay 0 []).gen with bbcEn := 1, bbcSlot := slot }
    let at' (slot : BitVec 6) (cs : List (BufId × Nat × W32)) := wState { wBay 0 [] with gen := on slot, counters := cs }
    let full := (List.range 64).map fun k => (2#24, 8 * (k + 1), 1#32)
    (wBay 0 []).gen.bbcEn = 0 ∧ (at' 0 []).checkAddr 0 .store 0 8 = .ok (.buf 2 0) ∧ (at' 0 []).isHost 0 2 = false ∧
      (at' 7 []).checkAddr 0 .store (7 * 2 ^ 58) 8 = .error 24 ∧ (at' 3 []).checkAddr 0 .store (3 * 2 ^ 58) 8 = .ok (.buf 3 0) ∧
      (at' 3 []).isHost 0 3 = true ∧ ([(2#24, 0, 0xFFFFFFFE#32)].find? fun e => e.1 == 2 && e.2.1 == 0) = some (2, 0, 0xFFFFFFFE) ∧
      full.length = 64 ∧ (full.filter fun e => !(e.1 == 2#24 && e.2.1 == 0)).length = 64 ∧ full[63]? = some (2, 512, 1) ∧
      (at' 0 full).home 0 2 = .mem (memKey 0 0 2 0) := by decide

/-- ACCRD at the last element and past it; TRMARK with room for a record, and without. -/
theorem witness_probes :
    let s := wState (wBay 0 [(1, 32767), (2, 32768)])
    let t (k : Nat) (v : Byte) : State := { s with mem := [(memKey 0 0 0xFFFFFB 0 + k, v)], yard := { s.yard with ctxs := [(0, { valid := true, tren := 1 })] } }
    bayKind 0 = 3 ∧ bayKind 0x80 ≠ 3 ∧ ((s.bay 0).gen.rd 1).toNat < 2 ^ 15 ∧ 2 ^ 15 ≤ ((s.bay 0).gen.rd 2).toNat ∧ (s.ctx 0).tren = 0 ∧
      (t 0 64).ok = true ∧ ((t 0 64).ctx 0).tren = 1 ∧ leNat ((t 0 64).load 0 15 0 0xFFFFFB 0 8).1 = 64 ∧
      leNat ((t 1 4).load 0 15 0 0xFFFFFB 0 8).1 = 1024 ∧ 64 + 32 ≤ 2 ^ ((t 0 64).ctx 0).trlg.toNat * 1024 ∧ 1024 < 1024 + 32 := by decide

/-- R53's checks, one word for each: no bay of kind 5 has an mtx queue, none of kind 3 a cls queue. -/
theorem witness_fairlead_checks :
    let none' : Bay := {}
    let two : Bay := { pend := [(1, 0xC4000000), (1, 0xC4000001)] }
    let one : Bay := { pend := [(1, 0xC4400010)] }
    none'.checkWord 3 0xE0000000 = some 48 ∧ queueExists 5 0 = false ∧ (0x21400102#32).extractLsb' 29 3 = 1 ∧ queueExists 3 4 = false ∧
      (0x00800000#32).getLsbD (19 + 4) = true ∧ (0xD4000000#32).extractLsb' 26 3 = 5 ∧ (0x00000000#32).extractLsb' 19 5 = 0 ∧
      (0xC0000000#32).extractLsb' 29 3 = 6 ∧ (0xC0000000#32).extractLsb' 26 3 = 0 ∧ (0xC4000000#32).extractLsb' 26 3 = 1 ∧
      (two.pend.filter fun p => p.1 == 1).length = 2 ∧ prefixesOf 0x21400102 = some 1 ∧ (none'.pend.filter fun p => p.1 == 1).length = 0 ∧
      (one.pend.filter fun p => p.1 == 1).length = 1 ∧ (0x402312C0#32).extractLsb' 29 3 = 2 ∧ prefixesOf 0x402312C0 = some 0 ∧
      none'.checkWord 3 0x402312C0 = none ∧ one.checkWord 3 0x21400102 = none := by decide

/-- An ended task, and one that is not. -/
theorem witness_ended :
    ended { wState (wBay 0 []) with yard := { slots := [(0, { endf := true })] } } ∧ ¬ ended (wState (wBay 0 [])) := by
  refine ⟨⟨0, rfl, rfl⟩, ?_⟩
  rintro ⟨k, hk, he⟩
  obtain rfl : (0 : TaskId) = k := Option.some.inj ((show some 0 = ((wState (wBay 0 [])).bay 0).task by rfl).trans hk)
  exact absurd he (by decide)

/-- Two words, a vector and a matrix word, with room and without; one that a check refuses in each place. -/
theorem witness_emits_one_or_two :
    let y := wBay 0 [(1, 0x402312C0402312C0), (2, 0xE0000000402312C0)]
    let full := { y with vec := { wait := List.replicate 12 {} } }
    let eleven := { y with vec := { wait := List.replicate 11 {} } }
    let w : W32 := (y.gen.rd 1).extractLsb' 0 32
    y.checkWord 3 w = none ∧ hasRoom y [] w ∧ ¬ hasRoom full [] w ∧ hasRoom eleven [] w ∧ ¬ hasRoom eleven (wordQueues w) w ∧
      hasRoom y (wordQueues w) w ∧ accepts w 0 0 0 y (y.accept w 0) ∧ (y.accept w 0).checkWord 3 w = none ∧
      (y.accept w 0).checkWord 3 ((y.gen.rd 2).extractLsb' 32 32) = some 48 ∧ y.checkWord 3 0xE0000000 = some 48 := by
  unfold hasRoom accepts onlyFairlead joins; decide

/-- EMITS of a block at buffer 2: a word to take, one that a check refuses, one without room, an empty and an unreadable
block; EMITQ of a queue and past the last. -/
theorem witness_emits_block :
    let y := wBay 0 [(1, 0x100), (2, 1), (3, 0), (4, 0x2000000000000000), (5, 2)]
    let s (w : List Byte) (k : Nat) : State := { wState { y with vec := { wait := List.replicate k {} } } with mem := Mem.writeN [] (memKey 0 0 2 0x100) w }
    let go := s [0xC0, 0x12, 0x23, 0x40]
    (genRead (go 0) 0x100 4 0).toOption.map (·.1) = some [0xC0, 0x12, 0x23, 0x40] ∧ (go 0).checkAddr 0 .load (y.gen.rd 4) 4 = .error 24 ∧
      y.checkWord 3 0x402312C0 = none ∧ y.checkWord 3 0xE0000000 = some 48 ∧ hasRoom y [] 0x402312C0 ∧
      ¬ hasRoom { y with vec := { wait := List.replicate 12 {} } } [] 0x402312C0 ∧
      (genRead (s [0, 0, 0, 0xE0] 0) 0x100 4 0).toOption.map (·.1) = some [0, 0, 0, 0xE0] ∧ y.gen.rd 2 = 1 ∧ y.gen.rd 3 = 0 ∧
      y.gen.rd 5 ≠ 1 ∧ y.gen.rd 5 ≠ 0 ∧ 4 < (5 : Word).toNat ∧ (4 : Word).toNat ≤ 4 ∧ y.vec.ent.length ≤ 256 := by
  unfold hasRoom; decide

/-- A bay with a waiting word, one whose generator waits for room, and one stopped for debug. -/
theorem witness_waiting_words_move :
    let y := { wBay 0 [] with vec := { wait := [{}] }, gen := { (wBay 0 []).gen with wait := some (.poll (.emit 1) 0) } }
    (wState y).populated 0 = true ∧ y.debugStop = false ∧ y.vec.ent.length < 256 ∧ y.waitsFor = some (.emit 1) ∧ (wBay 0 []).waitsFor = none ∧
      { y with debugStop := true }.debugStop = true := by decide

set_option maxRecDepth 20000 in
/-- TALLOC: operands that break the layout; every handle taken; a level without room for the tile; the run behind a tile of
one line. -/
theorem witness_talloc :
    let v : Word := 0x0A03F07F
    let one : Tile := { alloc := 1 }
    let whole : Tile := { alloc := 1, rows1 := 1023, cols1 := 4095, fmt := 12 }
    let full := wBay 0 []
    let y (t : Tile) : Bay := { full with tiles := [(0, t)] }
    v.extractLsb' 29 35 = 0 ∧ (0x0F000000 : Word).extractLsb' 24 4 = 15#4 ∧ (0x3000000000000000 : Word).extractLsb' 60 2 ≠ 0 ∧
      (∀ h : Byte, ({ full with tiles := (List.range 256).map fun k => (k, one) }.tile h).alloc ≠ 0) ∧
      ((y one).tile 1).alloc = 0 ∧ (∀ k : Byte, k.toNat < 1 → ((y one).tile k).alloc ≠ 0) ∧ one.lines = 1 ∧ whole.lines = 262144 := by
  decide

theorem witness_talloc_runs :
    let y (t : Tile) : State := wState { wBay 0 [] with tiles := [(0, t)] }
    (∀ a, ¬ linesFree (y { alloc := 1, rows1 := 1023, cols1 := 4095, fmt := 12 }) 0 0 256 a) ∧
      linesFree (y { alloc := 1 }) 0 0 256 1 ∧ ∀ k, k < 1 → ¬ linesFree (y { alloc := 1 }) 0 0 256 k := by
  have one (t : Tile) (a : Nat) (ha : t.alloc ≠ 0) (hl : t.level = 0) :
      linesFree (wState { wBay 0 [] with tiles := [(0, t)] }) 0 0 256 a ↔
        a + 256 ≤ 262144 ∧ (a + 256 ≤ t.base ∨ t.base + t.lines ≤ a) := by
    unfold linesFree
    constructor
    · rintro ⟨h1, h2⟩
      exact ⟨h1, h2 0 (by simp) (0, t) (by simp [wState, State.bay, Tab.get, Tab.find?]) ha hl⟩
    · rintro ⟨h1, h2⟩
      refine ⟨h1, fun c hc e he _ _ => ?_⟩
      obtain rfl : c = 0 := by simpa using hc
      obtain rfl : e = (0, t) := by simpa [wState, State.bay, Tab.get, Tab.find?] using he
      exact h2
  refine ⟨fun a h => ?_, ?_, fun k hk h => ?_⟩
  · have := ((one _ a (by decide) rfl).1 h).2
    rw [show ({ alloc := 1, rows1 := 1023, cols1 := 4095, fmt := 12 } : Tile).lines = 262144 by decide] at this
    have h1 := ((one _ a (by decide) rfl).1 h).1
    simp at this
    omega
  · exact (one _ 1 (by decide) rfl).2 (by decide)
  · have := ((one _ k (by decide) rfl).1 h).2
    rw [show ({ alloc := 1 } : Tile).lines = 1 by decide] at this
    simp at this
    omega

/-- TFREE of an allocated and a free handle, with room and without; a marker at the head of the last queue to pass it, for a
tile of the pool. -/
theorem witness_tiles_freed :
    let t : Tile := { alloc := 2, level := 1, passed := 0b0111 }
    let y := { wBay 0 [(1, 3), (2, 256)] with tiles := [(3, { alloc := 1 }), (4, t)], cout := { ent := [{ kind := .marker 4 }] } }
    let s := wState y
    (y.tile 3).alloc = 1 ∧ (y.gen.rd 1).extractLsb' 8 56 = 0 ∧ (y.gen.rd 2).extractLsb' 8 56 ≠ 0 ∧ (y.tile 5).alloc ≠ 1 ∧
      (∀ q, q < 5 → queueExists 3 q = true → (y.queue q).wait.length < 12) ∧
      ¬ ({ y with vec := { wait := List.replicate 12 {} } }.queue 1).wait.length < 12 ∧ s.populated 0 = true ∧
      y.head? 3 = some { kind := .marker 4 } ∧ y.canIssue = true ∧ y.idle 3 = true ∧
      queueMask 3 &&& ~~~(t.passed ||| BitVec.ofNat 5 (2 ^ 3)) = 0 ∧ { y with debugStop := true }.canIssue = false := by decide

/-- TINFO, TSTAT, BTST and TWAIT of handle 3: their items, masks and limits, and operands that break their layouts. -/
theorem witness_tile_reads :
    let y := { wBay 0 [(1, 0x203), (2, 1), (3, 0x503), (4, 0x603), (5, 0x1203), (6, 3), (7, 0x120), (8, 0x200), (9, 0x20)] with
      tiles := [(3, { alloc := 1, state := 2 })] }
    let g := y.gen
    (g.rd 1).extractLsb' 12 52 = 0 ∧ ((g.rd 3).extractLsb' 8 4).toNat = 5 ∧ 5 < ((g.rd 4).extractLsb' 8 4).toNat ∧
      (g.rd 5).extractLsb' 12 52 ≠ 0 ∧ (g.rd 6).extractLsb' 8 56 = 0 ∧ (y.tile 3).alloc = 1 ∧ (g.rd 8).extractLsb' 9 55 ≠ 0 ∧
      (g.rd 7).extractLsb' 9 55 = 0 ∧ (g.rd 7).getLsbD 8 = true ∧ (g.rd 9).getLsbD 8 = false ∧ (y.tile 4).alloc ≠ 1 ∧
      (g.rd 1).extractLsb' 10 54 = 0 ∧ (y.tile 3).state = (g.rd 1).extractLsb' 8 2 ∧ (y.tile 3).state ≠ (g.rd 6).extractLsb' 8 2 ∧
      (g.rd 0).toNat ≤ g.waited ∧ ¬ (g.rd 2).toNat ≤ g.waited := by decide

/-- CAP.NEW: sizes 0, 2^48 and above; a reserved bit; 63 slots taken; a quota reached and one not; the incarnation counter
spent; slot 2 and buffer 4 the lowest free ones. -/
theorem witness_cap_new :
    let y := wBay 0 [(1, 0x1000), (2, 0x0001000000000001), (3, 0x0001000000000000), (4, 0x200)]
    let s := wState y
    let s0 := { s with yard := { s.yard with bufs := s.yard.bufs.put 0 {} } }
    let f : Buf := { size := 4096, byNew := true }
    (y.gen.rd 2).toNat = 2 ^ 48 + 1 ∧ ¬ 2 ^ 48 < (y.gen.rd 3).toNat ∧ (y.gen.rd 4).extractLsb' 9 55 ≠ 0 ∧ (y.gen.rd 0).extractLsb' 9 55 = 0 ∧
      (∀ k, k < 63 → { y with caps := (List.range 63).map fun k => (k, {}) }.caps.find? k ≠ none) ∧ y.caps.find? 2 = none ∧
      (∀ k, k < 2 → y.caps.find? k ≠ none) ∧ s.framesFree f = true ∧ (s.ctx 0).mquota = 0 ∧ (s.ctx 0).incs < 2 ^ 48 ∧
      (1 : W32) ≠ 0 ∧ (1 : W32).toNat * 2 ^ 20 < (0xFFFFF : BitVec 48).toNat + f.pageTotal ∧ s0.buf? 0 4 = none ∧
      (∀ k : BitVec 3, k.toNat < 4 → s0.buf? 0 (k.setWidth 24) ≠ none) ∧ 2 ^ 48 ≤ { s.ctx 0 with incs := 2 ^ 48 }.incs := by decide

/-- CAP.SHARE and CAP.XFER to argument 5 of task 1: eligible, running, and its argument taken; a memory word under way. -/
theorem witness_cap_moves :
    let y := { wBay 0 [(1, 0), (2, 1), (3, 64), (4, 63), (5, 9), (6, 0x7D0001), (7, 0x7E0001), (8, 0x7D0000)] with
      caps := [(0, { buf := 2, rights := 15 }), (1, { buf := 2 }), (2, { buf := 3, rights := 8 })] }
    let s := { wState y with yard := { (wState y).yard with slots := [(0, { state := .running }), (1, { state := .waiting, args := List.replicate 6 0 })] } }
    let busy := { y with cpIn := { jobs := [{ instr := .cpIn 0 0 0 }] } }
    (y.gen.rd 3).extractLsb' 6 58 ≠ 0 ∧ (y.gen.rd 1).extractLsb' 6 58 = 0 ∧ ((y.gen.rd 6).extractLsb' 16 3).toNat = 5 ∧
      ((y.gen.rd 7).extractLsb' 16 3).toNat = 6 ∧ (y.gen.rd 6).extractLsb' 23 41 = 0 ∧ y.caps.find? 9 = none ∧ y.gen.rd 4 = 63 ∧
      (s.slot 1).state = .waiting ∧ (s.slot 1).capm.getLsbD 5 = false ∧ (s.slot 0).state = .running ∧ s.buf? 0 2 = some { size := 65536 } ∧
      y.memoryDone = true ∧ busy.memoryDone = false ∧ (15 : BitVec 4).getLsbD 3 = true ∧ (0 : BitVec 4).getLsbD 2 = false := by decide

/-- CAP.DROP and CAP.NARROW: slots held, empty and 63; the last reference and one before it; a word under way; a generator
that waits with each. -/
theorem witness_cap_ends :
    let y := wBay 0 [(1, 0), (2, 63), (3, 64), (4, 16)]
    let s := wState y
    let busy := { y with cpIn := { jobs := [{ instr := .cpIn 0 0 0 }] } }
    let waits' (i : Instr) : Bay := { y with gen := { y.gen with wait := some (.poll i 0) } }
    y.caps.find? 0 = some { buf := 2, rights := 15 } ∧ y.caps.find? 2 = none ∧ (y.gen.rd 3).extractLsb' 6 58 ≠ 0 ∧
      (y.gen.rd 2).extractLsb' 6 58 = 0 ∧ (y.gen.rd 4).extractLsb' 4 60 ≠ 0 ∧ y.memoryDone = true ∧ busy.memoryDone = false ∧
      s.buf? 0 2 = some { size := 65536, count := 1 } ∧ ¬ (2 : W32) ≤ 1 ∧ s.populated 0 = true ∧
      (waits' (.capDrop 1)).waitsFor = some (.capDrop 1) ∧ (waits' (.capXfer 1 2)).waitsFor = some (.capXfer 1 2) ∧
      (waits' (.capNarrow 1 2)).waitsFor = some (.capNarrow 1 2) := by decide

/-- CAP.INFO of a held slot, an empty one and slot 63, each item; an acknowledgement not there yet, with a result, with a fault. -/
theorem witness_cap_reads :
    let y := wBay 0 [(1, 0), (2, 0x42), (3, 0xC0), (4, 0x82), (5, 0x3F)]
    let s := wState y
    let asked (a : YardAnswer) : Bay := { y with gen := { y.gen with wait := some (.yard (.taskDec 1) a) } }
    y.caps.find? 0 ≠ none ∧ s.buf? 0 2 ≠ none ∧ y.caps.find? 2 = none ∧ ((y.gen.rd 2).extractLsb' 6 2).toNat = 1 ∧
      ((y.gen.rd 4).extractLsb' 6 2).toNat = 2 ∧ ((y.gen.rd 3).extractLsb' 6 2).toNat = 3 ∧ ((y.gen.rd 5).extractLsb' 0 6).toNat = 63 ∧
      s.buf? 0 y.code ≠ none ∧ s.populated 0 = true ∧ (asked { ready := false }).gen.wait = some (.yard (.taskDec 1) { ready := false }) ∧
      (asked { fault := some (28, 5) }).gen.wait = some (.yard (.taskDec 1) { ready := true, fault := some (28, 5) }) := by decide

/-- TD.SET, TD.GET and TD.BIND: words 0, 1, 2, 23 and 24; a binding address with a held, an empty and a malformed slot. -/
theorem witness_descriptors :
    let y := { wBay 0 [(1, 5), (2, 0x2005), (3, 0x17005), (4, 0x18005), (5, 0x1005), (6, 0x2400000000000000), (7, 0x0001000000000000)] with
      dcache := [(5, List.replicate 24 0)] }
    let busy := { y with cin := { wait := [{ w := 0x63101403 }] } }
    (wState y).ok = true ∧ ((y.gen.rd 1).extractLsb' 12 5).toNat = 0 ∧ ((y.gen.rd 5).extractLsb' 12 5).toNat = 1 ∧
      ((y.gen.rd 2).extractLsb' 12 5).toNat = 2 ∧ ((y.gen.rd 3).extractLsb' 12 5).toNat = 23 ∧ ((y.gen.rd 4).extractLsb' 12 5).toNat = 24 ∧
      (y.gen.rd 1).extractLsb' 17 47 = 0 ∧ y.memoryIssued = true ∧ busy.memoryIssued = false ∧ y.caps.find? ((y.gen.rd 0).toNat / 2 ^ 58) ≠ none ∧
      y.caps.find? ((y.gen.rd 6).toNat / 2 ^ 58) = none ∧ (y.gen.rd 7).extractLsb' 48 10 ≠ 0 ∧ y.dcache.find? 5 ≠ none := by decide

/-- Barriers 0, 63, 64 and 95 that the bay may use, 65 that it may not, 96 that is none; expected counts 0, 1, 65535, 65536. -/
theorem witness_barriers :
    let y := { wBay 0 [(1, 63), (2, 95), (3, 96), (4, 65), (5, 0x80), (6, 65535), (7, 65536)] with bars := [(0, { exp := 2, arr := 1 })] }
    let s := { wState y with sheds := [(0, { bars := [(0, { owner := some 0 }), (31, { exp := 1, owner := some 0 })] })] }
    mayName s 0 0 ∧ mayName s 0 63 ∧ mayName s 0 64 ∧ mayName s 0 95 ∧ ¬ mayName s 0 65 ∧ 95 < ((y.gen.rd 3).extractLsb' 0 7).toNat ∧
      (y.gen.rd 5).extractLsb' 7 57 ≠ 0 ∧ (y.gen.rd 6).toNat ≤ 65535 ∧ 65535 < (y.gen.rd 7).toNat ∧ (s.barrier 0 0).exp ≠ 0 ∧
      (s.barrier 0 95).exp ≠ 0 ∧ (s.barrier 0 63).exp = 0 := by unfold mayName; decide

/-- A barrier one generation ahead of its waiter, one caught up, a limit of 0 and one of 5; a generator that waits so. -/
theorem witness_barrier_waits :
    let y := { wBay 0 [(1, 3), (2, 4), (3, 5)] with bars := [(3, { exp := 1, gen := 1 }), (4, { exp := 1 })], gen := { (wBay 0 [(1, 3)]).gen with wait := some (.poll (.barWait 1 3) 0) } }
    let x := { wBay 0 [(1, 3), (2, 4), (3, 5)] with bars := [(3, { exp := 1, gen := 1 }), (4, { exp := 1 })] }
    let s := wState x
    mayName s 0 3 ∧ 1 ≤ ((s.barrier 0 3).gen - x.wcntOf 0 3).toNat ∧ ((s.barrier 0 3).gen - x.wcntOf 0 3).toNat ≤ 2 ^ 15 - 1 ∧
      ¬ 1 ≤ ((s.barrier 0 4).gen - x.wcntOf 0 4).toNat ∧ (x.gen.rd 0).toNat ≤ x.gen.waited ∧ x.gen.waited < (x.gen.rd 3).toNat ∧
      s.populated 0 = true ∧ y.waitsFor = some (.barWait 1 3) ∧ (s.ctx 0).tren = 0 ∧ (x.gen.rd 1).extractLsb' 7 57 = 0 := by
  unfold mayName; decide

/-- Rings: 0 with a slot for this bay, 1 empty, 2 full, 3 of no owner, 4 whose head no consumer needs. -/
theorem witness_rings :
    let y := wBay 0 [(1, 0x00010000), (2, 0x00010001), (3, 0x00010002), (4, 0x00010003), (5, 0x01000000), (6, 1), (7, 5)]
    let one : Ring := { owner := some 0, tail := 1, cmask := [(0, 1)], val := [(0, 9)] }
    let got : Ring := { one with cur := [(0, 1)] }
    let full : Ring := { owner := some 0, tail := 64, cmask := [(0, 1)] }
    let s (r : Ring) : State := { wState y with sheds := [(0, { rings := [(0, r), (1, { owner := some 0 }), (2, full), (4, { tail := 1 })] })] }
    let w := { y with gen := { (wBay 0 []).gen with wait := some (.poll (.ringGet 5 0 6) 0) } }
    (full.tail - full.head).toNat ≤ 64 ∧ 64 ≤ (((s one).ringNow 0 2).tail - ((s one).ringNow 0 2).head).toNat ∧
      (((s one).ringNow 0 0).tail - ((s one).ringNow 0 0).head).toNat < 64 ∧ (y.gen.rd 1).extractLsb' 32 32 = 0 ∧
      (y.gen.rd 5).extractLsb' 16 16 = 0x100#16 ∧ ((s one).liveMask 0).getLsbD 8 = false ∧ (((s one).liveMask 0).getLsbD 0) = true ∧
      ((s one).ring 0 0).owner = some 0 ∧ ((s one).ring 0 3).owner ≠ some 0 ∧ (y.gen.rd 6).extractLsb' 3 61 = 0 ∧
      ((s one).ringNow 0 0).getCursor 0 ≠ ((s one).ringNow 0 0).tail ∧ ((s one).ringNow 0 1).getCursor 0 = ((s one).ringNow 0 1).tail ∧
      (y.gen.rd 0).toNat ≤ y.gen.waited ∧ y.gen.waited < (y.gen.rd 7).toNat ∧
      ((s one).ringNow 0 0).seek 0 0 64 0 = 0 ∧ ((s got).ringNow 0 0).catchUp (Tab.get 0 got.cur 0) = 1 ∧
      ((s got).ringNow 0 0).seek 0 1 64 0 ≠ 1 ∧ w.waitsFor = some (.ringGet 5 0 6) ∧ (s one).populated 0 = true := by decide

/-- An entry at the head of a queue of a bay that may issue. -/
def wHead (q : QId) (e : Entry) (b : BayNo := 0) (f : Bay → Bay := id) : State :=
  { wState (f ((wBay 0 []).setQueue q.toNat { ent := [e] })) b with curQ := q }

/-- Sync words that act in their own queue, at the head of vec: idle and behind an executing word (in cin), barriers with a
completion, without, and out of the bay's reach. -/
theorem witness_sync_words :
    let s := wHead 1 {} 0 fun y => { y with bars := [(3, { exp := 1, gen := 1 }), (4, { exp := 1 })] }
    let c := wHead 2 {} 0 fun y => { y with cpIn := { jobs := [{ instr := .cpIn 0 0 0 }] } }
    atHead 1 {} s ∧ s.curQ.toNat = 1 ∧ (s.bay 0).idle 1 = true ∧ atHead 2 {} c ∧ (c.bay 0).idle 2 = false ∧ mayName s 0 3 ∧ mayName s 0 4 ∧
      ¬ mayName s 0 64 ∧ 1 ≤ ((s.barrier 0 3).gen - (s.bay 0).wcntOf 2 3).toNat ∧
      ¬ 1 ≤ ((s.barrier 0 4).gen - (s.bay 0).wcntOf 2 4).toNat ∧ (s.bay 0).slipMask.getLsbD 1 = false := by
  unfold atHead mayName; decide

/-- Rounds inside a group of vec and cin at depth 0: one that may leave, one that must wait. -/
theorem witness_rounds :
    let r (held : Bool) : State := wHead 1 { held := held } 0xA0 fun y => { y with slipMask := 0b0110 }
    atHead 1 { held := true } (r true) ∧ atHead 1 {} (r false) ∧ ((r true).bay 0xA0).slipMask.getLsbD 1 = true ∧
      (∀ p, p < 5 → ((r true).bay 0xA0).slipMask.getLsbD p = true → p ≠ 1 → 0 ≤ (((r true).bay 0xA0).queue p).rnd) ∧
      ((r false).bay 0xA0).slipMask.getLsbD 2 = true ∧ ¬ 0 + 1 ≤ (((r false).bay 0xA0).queue 2).rnd := by
  unfold atHead; decide

/-- A joined word: both copies at their heads, and one copy alone; in a vector bay, and in one that is not; a held round. -/
theorem witness_joined_words :
    let both (b : BayNo) : State := wHead 1 {} b fun y => { y with cin := { ent := [{}] }, bars := [(3, { exp := 2 })] }
    let alone := wHead 1 {} 0xA0
    let held := wHead 1 { held := true } 0xA0 fun y => { y with slipMask := 0b0110, vec := { y.vec with rnd := 1 } }
    (6 : BitVec 5).getLsbD 1 = true ∧ atHead 1 {} (both 0xA0) ∧
      (∀ p, p < 5 → (6 : BitVec 5).getLsbD p = true → ((both 0xA0).bay 0xA0).idle p = true ∧
        ((both 0xA0).bay 0xA0).head? p = some {}) ∧ (alone.bay 0xA0).head? 2 = none ∧ atHead 1 {} alone ∧
      bayKind 0xA0 = 5 ∧ bayKind 0 ≠ 5 ∧ atHead 1 {} (both 0) ∧ mayName (both 0) 0 3 ∧ ((both 0).barrier 0 3).exp ≠ 0 ∧
      ((both 0).barrier 0 5).exp = 0 ∧ (∀ p, p < 1 → (6 : BitVec 5).getLsbD p = false) ∧ held.populated 0xA0 = true ∧
      (held.bay 0xA0).head? 1 = some { held := true } ∧ (held.bay 0xA0).canIssue = true ∧
      ¬ ((held.bay 0xA0).queue 1).rnd ≤ ((held.bay 0xA0).queue 2).rnd + (held.bay 0xA0).slipDepth.toNat := by
  unfold atHead mayName; decide

/-- Matrix words at the head of mtx of a bay with an N8 tile of 128 × 8, an I8 one of 8 × 128, an I32 one and, in handle 9, one
not ready; sets of FP32, an applied format of I32. -/
def wMx (m : Mx) (w : W32 := 0) : State :=
  wHead 0 { w := w } 0 fun y => { y with
    mx := m
    tiles := [(1, { alloc := 1, state := 2, fmt := 1, rows1 := 127, cols1 := 7 }), (2, { alloc := 1, state := 2, fmt := 0, rows1 := 7, cols1 := 127, base := 128 }),
      (6, { alloc := 1, state := 2, fmt := 4, rows1 := 127, cols1 := 127, base := 200 }), (9, { alloc := 1, fmt := 4 })] }

/-- mx.mma of one group on them. -/
def wMma (ovw : BitVec 1) (p : MxPair := { fa := 1, fb := 0, so := 0, sat := 0, ga2 := 0, gb2 := 0, g := 1 }) (ta tb : Byte := 1) : Instr :=
  .mxMma p 0 ovw 0 ta (if tb = 1 then 2 else tb)

theorem witness_matrix_words_issue :
    let m : Mx := { cfg := { afmt := 1 } }
    let s := wMx m
    let y := s.bay 0
    let p : MxPair := { fa := 1, fb := 0, so := 0, sat := 0, ga2 := 1, gb2 := 0, g := 1 }
    let f := wMx {}
    atHead 0 {} s ∧ m.port = none ∧ m.arrayOn 0 = false ∧ { m with arrays := [{ instr := wMma 1 }] }.arrayOn 0 = true ∧
      y.missing 0 (mxTiles (wMma 1)) = none ∧ y.missing 0 (mxTiles (wMma 1 p 5)) = some 5 ∧ (y.tile 9).state ≠ 2 ∧ s.mayIssue 0 (wMma 1) = true ∧
      firstFail (y.mxChecks (wMma 1)) = none ∧ (s.judgeScales 0 (mxScales (wMma 1))).1.toOption.isSome = true ∧
      firstFail (y.mxChecks (wMma 0)) = some (1, .nothing) ∧ firstFail ((f.bay 0).mxChecks (wMma 1 p)) = none ∧
      (f.judgeScales 0 (mxScales (wMma 1 p))).1.toOption = none ∧ portSet (.mxSnap 1 6) = some 1 := by
  unfold atHead; decide

/-- A word whose last group has entered, one behind which nothing else of its group has, one with scales that cannot be read;
a port word on set 0. -/
theorem witness_matrix_units :
    let long : MxPair := { fa := 1, fb := 0, so := 0, sat := 0, ga2 := 0, gb2 := 0, g := 20 }
    let j : MxJob := { instr := wMma 1 }
    let bad : MxJob := { instr := wMma 1 { fa := 1, fb := 0, so := 0, sat := 0, ga2 := 1, gb2 := 0, g := 1 } }
    let s (m : Mx) := wMx m
    (s { arrays := [j] }).entered 0 j = true ∧ (s { arrays := [j] }).mayIssue 0 (wMma 1) = true ∧
      (s {}).entered 0 { j with instr := wMma 1 long } = false ∧ (s {}).entered 0 bad = false ∧
      (s { arrays := [j], port := some { instr := .mxInit 0 6 } }).mayIssue 0 (wMma 1) = false ∧
      (s { arrays := [j] }).mayIssue 0 (.mxZero 0) = false ∧ (s { arrays := [j] }).mayIssue 0 (.mxZero 1) = true ∧
      (s { arrays := [{ instr := .mxLdw 0 0 0 1 0 1 }] }).mayIssue 0 (wMma 1) = false ∧
      (s { port := some { instr := .mxInit 0 6 } }).mayIssue 0 (.mxSnap 1 6) = false := by decide

theorem witness_matrix_checks :
    let p : MxPair := { fa := 1, fb := 0, so := 0, sat := 0, ga2 := 0, gb2 := 0, g := 1 }
    let m : Mx := { cfg := { afmt := 1 } }
    let y := (wMx m).bay 0
    (m.set 0).afmt ≠ m.cfg.afmt ∧ (({} : Mx).set 0).afmt = ({} : Mx).cfg.afmt ∧ (({} : Mx).set 0).ms1 = ({} : Mx).cfg.m1 ∧ (10 : Fmt) ≠ (y.tile 1).fmt ∧
      p.fa = (y.tile 1).fmt ∧ p.fb = (y.tile 2).fmt ∧ p.g.toNat * pairKd p.fa p.fb ≤ 8 ∧ (y.tile 1).cols = 8 ∧ (y.tile 2).rows = 8 ∧
      m.cfg.m1.toNat < (y.tile 1).rows ∧ m.cfg.n1.toNat < (y.tile 2).cols ∧ fmtIsInt p.fa = true ∧ fmtIsInt p.fb = true := by decide

theorem witness_integer_group :
    let j : MxJob := { instr := wMma 1 }
    let s := wMx { cfg := { afmt := 1 }, acc0 := { afmt := 1, ms1 := 1, ns1 := 1 }, arrays := [j] }
    let y := s.bay 0
    s.populated 0 = true ∧ y.mx.arrays = [j] ∧ y.halted = false ∧ (y.mx.set 0).afmt = 1 ∧ fmtIsInt 1 = true ∧ fmtIsInt 0 = true ∧
      (y.tile 1).fmt = 1 ∧ (y.tile 2).fmt = 0 ∧ (j.upc + 1) * pairKd 1 0 ≤ (y.tile 1).cols ∧ (j.upc + 1) * pairKd 1 0 ≤ (y.tile 2).rows := by
  decide

/-- A group of mx.mmw with the weight buffer's format, one that sign-extends, and one whose first scale has no tensor. -/
theorem witness_group_stops :
    let p : MxPair := { fa := 1, fb := 0, so := 1, sat := 1, ga2 := 0, gb2 := 0, g := 1 }
    let q : MxPair := { fa := 1, fb := 0, so := 0, sat := 0, ga2 := 1, gb2 := 1, g := 1 }
    let bad : MxJob := { instr := wMma 1 q }
    let s := wMx { w := { fmt := 0 }, arrays := [bad] }
    (mulWord? (.mxMmw p 0 1 0 0 1)).isSome = true ∧ (s.bay 0).mx.w.fmt = p.fb ∧ (s.bay 0).mx.w.g1 = 0 ∧
      s.scaleBad 0 bad.descA [0, 0] = some 5 ∧ s.scaleBad 0 bad.descB [0, 0] = some 5 ∧ (s.bay 0).halted = false := by decide

theorem witness_matrix_rows_end :
    let init : MxJob := { instr := .mxInit 0 6, upc := 127 }
    let snap : MxJob := { instr := .mxSnap 1 6, acc := { afmt := 1 }, upc := 127 }
    let ldw : MxJob := { instr := .mxLdw 0 0 0 1 0 1, upc := 127 }
    let s := wMx { port := some init, arrays := [{ instr := wMma 1 }, ldw] }
    let y := s.bay 0
    s.populated 0 = true ∧ y.halted = false ∧ y.mx.port = some init ∧ init.upc ≤ (y.mx.set 0).ms1.toNat ∧
      ((wMx { port := some snap }).bay 0).mx.port = some snap ∧ snap.upc ≤ snap.acc.ms1.toNat ∧ snap.acc.ms1.toNat < (y.tile 6).rows ∧
      snap.acc.ns1.toNat < (y.tile 6).cols ∧ (y.tile 6).fmt = 4 ∧ y.mx.arrays = [{ instr := wMma 1 }] ++ [ldw] ∧
      mulWord? (wMma 1) ≠ none ∧ y.mx.w.g1 = 0 ∧ ldw.upc < (y.tile 1).rows ∧ (y.tile 1).cols ≤ 128 := by decide

/-- Vector words at the head of vec: slots 1 to 3 on three FP32 tiles of 16 elements, slot 4 on one not ready, slot 5 unset. -/
def wVx (vx : Vx := {}) : State :=
  let t (b : Nat) : Tile := { alloc := 1, state := 2, fmt := 12, cols1 := 15, base := b }
  let v (h : Byte) : Slot := { kind := 1, tile := h, stride := 1, count := 16 }
  wHead 1 {} 0 fun y => { y with
    vx := { vx with slots := [(1, v 1), (2, v 2), (3, v 3), (4, v 4), (6, v 6)] }
    tiles := [(1, t 0), (2, t 1), (3, t 2), (4, { t 3 with state := 0 }), (7, { t 4 with fmt := 3, rows1 := 1 })]
    store := [(256, 3)] }

/-- vx.add of slots 1 and 2 into slot d. -/
def wAdd (d : BitVec 4) : Instr := .vxAdd { s := 2, d := d, a := 1, b := 2, t := 12, r := 0, m := 0 }

theorem witness_vector_words_issue :
    let s := wVx
    let y := s.bay 0
    let tiles (d : BitVec 4) : List Byte := ((vxWord? (wAdd d)).map fun w => slotTiles (y.vxSlots w)).getD []
    let fail (d : BitVec 4) := (vxWord? (wAdd d)).map fun w => firstFail (s.vxChecks 0 w (s.vxSrcs 0 (y.vxSlots w) (s.slotLens 0 (y.vxSlots w) s.now)))
    atHead 1 {} s ∧ y.vx.stopped = none ∧ y.missing 1 (tiles 3) = none ∧ (∀ h ∈ tiles 3, (y.tile h).state = 2) ∧ fail 3 = some none ∧
      y.missing 1 (tiles 6) = some 6 ∧ ¬ (∀ h ∈ tiles 4, (y.tile h).state = 2) ∧ y.missing 1 (tiles 5) = none ∧ fail 5 ≠ some none ∧
      y.vx.chk = 0 ∧ y.vx.pend = [] := by unfold atHead; decide

theorem witness_elementwise_results :
    let s := wVx
    let w := vxBin 0 { s := 2, d := 3, a := 1, b := 2, t := 12, r := 0, m := 0 }
    let src := s.vxSrcs 0 ((s.bay 0).vxSlots w) []
    vxWord? (wAdd 3) = some w ∧ vxOrdered w.op = false ∧ (src.find? 0).map (·.stride) = some 1 ∧ (src.find? 0).map (·.count) = some 16 ∧
      w.m = false := by decide

theorem witness_vector_integer_results : fmtIA 2 = true ∧ 65535 < 2 ^ fmtBits 2 ∧ fmtIA 0 = true ∧ 255 < 2 ^ fmtBits 0 := by decide

theorem witness_vector_controls :
    let s := wVx
    let y := s.bay 0
    let lens := ((List.range 1).map fun k => s.tileLin 0 (y.tile 7) k).sum
    atHead 1 {} s ∧ y.vx.stopped = none ∧ y.vx.pend = [] ∧ y.missing 1 [1, 7] = none ∧ (y.tile 1).state = 2 ∧ (y.tile 7).state = 2 ∧
      ((y.tile 1).rows * (y.tile 1).cols = 16) ∧ (15 : Nat) < 16 ∧ ((15 : Int) + (16 - 1) * (-1) = 0) ∧ (y.tile 7).fmt = 3 ∧ lens = 3 ∧
      1 ≤ (y.tile 7).rows * (y.tile 7).cols ∧ ({ pend := [{}] } : Vx).pend ≠ [] := by unfold atHead; decide

theorem witness_vector_write_lands :
    let w : VxPend := { land := 5, tile := 3, cells := [(0, 7), (15, 9)], flags := 1 }
    let s := wVx { pend := [{ w with land := 6 }, w] }
    s.populated 0 = true ∧ (s.bay 0).vx.pend[1]? = some w ∧ w.land < 6 ∧ Tab.risesFrom 0 w.cells = true ∧
      ∀ c ∈ w.cells, c.1 < ((s.bay 0).tile 3).size := by decide

/-- Tensor 20: FP32, rank 2, 4 × 4, row-major, bound at offset 0 of buffer 2. -/
def wDesc : Desc := [0, 0x8000000000000002, 0x2C, 0x0000000400000004, 0, 0, 0, 1, 4] ++ List.replicate 15 0

/-- Copy words at the head of cin: tile 1 FP32 of 1 × 4, empty, tile 2 the same, ready, tile 3 not allocated. -/
def wCp (cp : Cp := {}) (e : Entry := {}) : State :=
  let t (b : Nat) : Tile := { alloc := 1, fmt := 12, cols1 := 3, base := b }
  wHead 2 e 0 fun y => { y with
    cpIn := cp
    dcache := [(20, wDesc), (21, wDesc.set 2 0x2A)]
    tiles := [(1, t 0), (2, { t 1 with state := 2 })] }

theorem witness_copy_controls :
    let s := wCp
    let c := wCp { jobs := [{ instr := .cpIn 1 20 1, ent := { w := 0x63101401 } }] } { seqNo := 1 }
    atHead 2 {} s ∧ (8 : BitVec 4).toNat ≤ 8 ∧ 8 < (9 : BitVec 4).toNat ∧ (s.bay 0).drainPending 1 0 = false ∧
      atHead 2 { seqNo := 1 } c ∧ (c.bay 0).drainPending 1 1 = true := by unfold atHead; decide

theorem witness_copy_words_issue :
    let s := wCp
    let y := s.bay 0
    let w (t : BitVec 12) (h : Byte) : CpWord := { op := 3, q := 0, cls := 1, t := t, h := h }
    cpWord? (.cpIn 1 20 1) = some (w 20 1) ∧ atHead 2 {} s ∧ y.missing 2 (w 20 3).tiles = some 3 ∧ y.missing 2 (w 20 1).tiles = none ∧
      (y.tile 2).state ≠ 0 ∧ (y.tile 1).state = 0 ∧ y.cpIn.jobs.length < 4 ∧ firstFail (y.cpShapes (w 20 1)) = none ∧
      (s.cpJudge 0 (w 20 1)).1.toOption = some (wDesc, []) ∧ (s.cpJudge 0 (w 21 1)).1.toOption = none ∧
      firstFail (((wCp { nlev := 1, levels := [{ cnt := 2 }] }).bay 0).cpShapes (w 20 1)) ≠ none := by unfold atHead; decide

theorem witness_copies_complete :
    let j : CpJob := { instr := .cpIn 1 20 1, desc := wDesc, origin := List.replicate 8 0 }
    let s := wCp { jobs := [j] }
    let d := j.desc
    let idx (r c : Nat) : List Int := (addAt (j.coord r) 0 c).take (Desc.rank d)
    s.populated 0 = true ∧ s.ok = true ∧ s.yard.dbg.wp = [] ∧ ((s.bay 0).cp 0).jobs = [j] ∧ (s.bay 0).wf.valid = false ∧
      j.upc < ((s.bay 0).tile 1).rows ∧ ((s.bay 0).tile 1).rows = 1 ∧ ((s.bay 0).tile 1).cols = 4 ∧ Desc.fmt d = ((s.bay 0).tile 1).fmt ∧
      (∀ c : Nat, c < 4 → coordInside d (addAt (j.coord 0) 0 c) = true ∧ s.elemFault 0 d (idx 0 c) = none) ∧ s.bufSize 0 (Desc.buf d) ≤ 2 ^ 48 ∧
      (∀ c : Nat, c < 4 → ∀ c' : Nat, c' < 4 → c ≠ c' → 32 ≤ (descBit d (idx 0 c) - descBit d (idx 0 c')).natAbs) ∧
      (cpWord? (.cpOutCin 1 20 1)).map (·.op) = some 4 ∧ (cpWord? (.cpFillCin 20 1)).map (·.op) = some 5 := by decide

theorem witness_arrivals :
    let x : Sender := { bay := 0, q := 0, cls := 1 }
    let r : Red := { ctx := 0, buf := 2, bit := 65504 * 8, fmt := 0, op := 0, bits := 255, src := x }
    let h : Hist := { ctx := 0, buf := 2, off := 4, src := x }
    let d : Side := { ctx := 0, buf := 2, off := 8, status := 1, src := x }
    let s := { wState (wBay 0 []) with reds := [r], hists := [h], sides := [d] }
    s.reds[0]? = some r ∧ s.home 0 2 = .mem (memKey 0 0 2 0) ∧ fmtIsInt r.fmt = true ∧ r.fmt ≠ 7 ∧ r.bits < 2 ^ fmtBits r.fmt ∧
      r.bit % fmtBits r.fmt = 0 ∧ s.hists[0]? = some h ∧ s.sides[0]? = some d ∧ s.redLost r = false ∧ s.histLost h = false ∧
      s.sideLost d = false := by decide

/-- What a copy that still executes sent to a package out of reach: a value, an increment and a merge. -/
theorem witness_lost_requests :
    let x : Sender := { bay := 0, q := 0, cls := 1 }
    let r : Red := { ctx := 0, buf := 9, bit := 0, fmt := 4, op := 0, bits := 7, src := x }
    let h : Hist := { ctx := 0, buf := 9, off := 4, src := x }
    let d : Side := { ctx := 0, buf := 9, off := 8, status := 1, src := x }
    let s0 := wCp { jobs := [{ instr := .cpRed 0 1 20 2 0 0 1 0, merged := true, srcDone := true }] }
    let s := { s0 with reds := [r], hists := [h], sides := [d], remote := [5],
                       yard := { s0.yard with bufs := s0.yard.bufs.put 9 { size := 4096, imp := some (5, 0, 9) } } }
    s.redLost r = true ∧ s.histLost h = true ∧ s.sideLost d = true ∧ s.reds[0]? = some r ∧ s.hists[0]? = some h ∧
      s.sides[0]? = some d ∧ (((s.bay 0).cp 0).jobs.find? fun j => j.ent.seqNo == x.seqNo).isSome = true ∧
      (s.bay 0).wf.valid = false := by decide

/-- A copy whose third element lies past the end of its tensor's buffer, and which has sent nothing. -/
theorem witness_copy_stops :
    let d := wDesc.set 0 65528
    let j : CpJob := { instr := .cpIn 1 20 1, desc := d, origin := List.replicate 8 0 }
    let s := wCp { jobs := [j] }
    s.onWay (j.sent 0 0) = false ∧ (cpWord? j.instr).map (·.accesses) = some true ∧ s.histRemote 0 d = false ∧
      s.sideRemote 0 d = false ∧ coordInside d (addAt (j.coord 0) 0 2) = true ∧
      s.elemFault 0 d ((addAt (j.coord 0) 0 2).take (Desc.rank d)) = some 5 ∧
      s.elemFault 0 d ((addAt (j.coord 0) 0 1).take (Desc.rank d)) = none ∧
      s.elemFault 0 d ((addAt (j.coord 0) 0 0).take (Desc.rank d)) = none := by decide

/-- Class-engine words at the head of cls: an index tile with one entry, a value, an operand and an I32 output tile; handle 5
an index tile to fill, handle 9 not ready. -/
def wKx (b : BayNo) (kx : Kx := {}) : State :=
  let t (b : Nat) (f : Fmt) : Tile := { alloc := 1, state := 2, fmt := f, cols1 := 7, base := b }
  wHead 4 {} b fun y => { y with
    kx := kx
    tiles := [(1, t 0 4), (2, t 1 0), (3, t 2 0), (4, t 3 4), (5, { t 4 4 with state := 0 }), (9, { t 5 4 with state := 1 })]
    store := [(0, 1), (4, 1), (12, 1), (64, 3), (128, 5), (129, 7)] }

/-- kx.spmm of tiles 1, 2 and 3 into tile 4. -/
def wSpmm : Instr := .kxSpmm { flag := 0, tx := 2, ti := 1, tb := 3, out := 4, rnd := 0, sat := 0 }

theorem witness_class_words_issue :
    let s := wKx 0x80
    let y := s.bay 0x80
    (kxIndex wSpmm).isSome = true ∧ atHead 4 {} s ∧ bayKind 0x80 = 4 ∧ bayKind 0xE0 = 6 ∧ y.missing 4 (kxTiles wSpmm) = none ∧ y.kx.job = none ∧
      (∀ h ∈ kxTiles wSpmm, (y.tile h).state = 2) ∧ firstFail (s.kxChecks 0x80 wSpmm) = none ∧ (y.tile 5).state = 0 ∧
      firstFail (s.kxChecks 0x80 (.kxIld 1 5)) = none ∧ y.missing 4 (kxTiles (.kxIld 1 7)) = some 7 ∧
      firstFail (s.kxChecks 0x80 (.kxIld 2 5)) ≠ none ∧ (y.tile 9).state ≠ 2 ∧ atHead 4 {} (wKx 0xE0) ∧
      (kxSortWord? (.kxUniq 1 0 0 4)).isSome = true ∧ firstFail ((wKx 0xE0).kxChecks 0xE0 (.kxUniq 1 0 0 4)) = none := by
  unfold atHead; decide

theorem witness_sort_words :
    let i := Instr.kxSort { kt := 1, desc := 0, ven := 0, tv := 0, tk := 4 } 8 0 0
    let s := wKx 0xE0 { job := some { instr := i, n := 8 } }
    let k : KxSortWord := { kt := 1, desc := false, ven := false, tv := 0, tk := 4, n := 8 }
    let tk := (s.bay 0xE0).tile 4
    s.populated 0xE0 = true ∧ (s.bay 0xE0).kx.job = some { instr := i, n := 8 } ∧ kxSortWord? i = some k ∧ (s.bay 0xE0).wf.valid = false ∧
      k.kt < 4 ∧ fmtBits tk.fmt = 32 ∧ fmtBits ((s.bay 0xE0).tile 0).fmt ≤ 32 ∧ 8 ≤ tk.size ∧ k.tcn = none ∧ (s.sortLens 0xE0 k).sum ≤ 8 ∧
      apart tk ((s.bay 0xE0).tile 1) := by unfold apart; decide

theorem witness_sparse_product :
    let s := wKx 0x80 { job := some { instr := wSpmm } }
    let y := s.bay 0x80
    let hd : IdxHead := { m := 1, nc := 1, nnz := 1 }
    s.populated 0x80 = true ∧ y.kx.job = some { instr := wSpmm } ∧ y.wf.valid = false ∧ (y.tile 4).fmt = 4 ∧ fmtIsInt (y.tile 2).fmt = true ∧
      s.idxHead 0x80 (y.tile 1) 4096 65536 true = some hd ∧ (∀ r, r < 1 → s.rowBreak 0x80 (y.tile 1) hd r = none) ∧ hd.m ≤ (y.tile 4).rows ∧
      (y.tile 4).cols ≤ (y.tile 3).cols ∧ hd.nc ≤ (y.tile 3).rows ∧ hd.nnz ≤ (y.tile 2).size ∧ apart (y.tile 4) (y.tile 1) ∧
      apart (y.tile 4) (y.tile 2) ∧ apart (y.tile 4) (y.tile 3) := by unfold apart; decide

/-- Memory of context 0 that holds a code object in buffer 1 (dense, 128 bytes, entry 72, profile 0 for its main entry), the
code table's entry 0 naming it, and bytes of buffer 2. -/
def wCode (b2 : List (Nat × Byte)) : Mem :=
  let at' (b : Nat) (l : List (Nat × Byte)) : Mem := l.map fun e => (memKey 0 0 b e.1, e.2)
  at' 1 [(0, 0x5A), (1, 0x57), (2, 0x4F), (3, 0x43), (4, 1), (6, 0x40), (8, 0x80), (12, 72), (16, 3), (18, 1), (28, 64), (65, 1), (66, 1)] ++
    at' 2 b2 ++ at' 0xFFFFFD [(0, 1), (4, 1)]

/-- The package with that memory, its context with room for q tasks. -/
def wSpawn (q : BitVec 17) (b2 : List (Nat × Byte)) (y : Bay := wBay 0 [(1, 0x100), (2, 0x101), (3, 6), (4, 5), (5, 0x10000), (6, 0xFFFF)]) : State :=
  { wState y with mem := wCode b2, yard := { (wState y).yard with ctxs := [(0, { valid := true, qslot := q })] } }

/-- TASK.SPAWN of a record that is placed in slot 1, of one of an absent class (AFF of a sparse shed), of an invalid code, of a
malformed one (POL 3), and in a context without room; TASK.ARG, TASK.DEC and TASK.END at their bounds. -/
theorem witness_tasks :
    let rec' (l : List (Nat × Byte)) : TaskRecord := BitVec.ofNat 512 (leNat ((genRead (wSpawn 9 l) 0x100 64 0).toOption.map (·.1) |>.getD []))
    let s := wSpawn 9 []
    s.ok = true ∧ 0 < 9 ∧ (genRead s 0x100 64 0).toOption.isSome = true ∧ recMalformed (s.graphTasks 0) (rec' []) = false ∧
      (s.judgeRecord 0 0 (rec' [])).toOption.isSome = true ∧ recCapm (rec' []) = 0 ∧ recCnt (rec' []) = 0 ∧
      recMalformed 0 (rec' [(0x100, 0x30)]) = true ∧ s.judgeRecord 0 0 (rec' [(0x105, 1)]) = .error .absent ∧
      s.judgeRecord 0 0 (rec' [(0x102, 0x10)]) = .error .code ∧ (∀ e ∈ s.yard.slots, e.1 = 1 → e.2.state = .free) ∧
      ¬ (∀ e ∈ s.yard.slots, e.1 = 0 → e.2.state = .free) ∧ ((wSpawn 0 []).ctx 0).qslot.toNat ≤ (wSpawn 0 []).resident 0 := by decide

theorem witness_task_operands :
    let y := (wSpawn 9 []).bay 0
    (y.gen.rd 2).toNat % 64 ≠ 0 ∧ 5 < (y.gen.rd 3).toNat ∧ (y.gen.rd 4).toNat ≤ 5 ∧ 2 ^ 16 ≤ (y.gen.rd 5).toNat ∧
      (y.gen.rd 6).toNat < 2 ^ 16 ∧ y.pend = [] ∧ [(1, (0 : W32))] ≠ ([] : List (Nat × W32)) ∧ quiet { y with caps := [] } ∧ y.tiles = [] ∧
      (∀ q ∈ queueIds 3, (y.queue q).wait.length < 12) ∧ 12 ≤ ({ y with cin := { wait := List.replicate 12 {} } }.queue 2).wait.length := by
  unfold quiet; decide

/-- A word fault at a generator that may take its interrupt, one in U mode that may not, and one whose word is at the head of
vec, executes on the port, or is a stopped vector word or a class-engine word. -/
theorem witness_fault_controls :
    let w : WordFault := { valid := true, act := 1, qid := 1, eseq := 7 }
    let e : Entry := { eseq := 7 }
    let y := { wBay 1 [(1, 31), (2, 32), (3, 0x404), (4, 5), (5, 0x500)] with wf := w, vec := { ent := [e] } }
    let on : Bay := { y with gen := { y.gen with mode := 0, csr := y.gen.csr.put 0x304 0x30000 } }
    let named (e : Entry) : Bool := e.kind == .word && e.eseq == w.eseq && e.off == w.off && e.w == w.word
    (wState on).populated 0 = true ∧ on.wf.valid = true ∧ (on.gen.csrRd 0x304).getLsbD 16 = true ∧ (on.gen.csrRd 0x303).getLsbD 16 = true ∧
      on.gen.mode = 0 ∧ on.gen.wait = none ∧ (y.gen.csrRd 0x304).getLsbD 16 = false ∧ y.gen.mode ≠ 0 ∧ y.wf.act.toNat ≤ 1 ∧
      1 < (2 : BitVec 2).toNat ∧ y.vx.pend = [] ∧ y.head? 1 = some e ∧ named e = true ∧ y.vx.stopped = none ∧ (y.gen.rd 1).toNat < 2 ^ 5 ∧
      2 ^ 5 ≤ (y.gen.rd 2).toNat ∧ ((y.gen.rd 3).extractLsb' 0 3).toNat = 4 ∧ ((y.gen.rd 3).extractLsb' 8 3).toNat = 4 ∧
      4 < ((y.gen.rd 4).extractLsb' 0 3).toNat ∧ 4 < ((y.gen.rd 5).extractLsb' 8 3).toNat := by decide

theorem witness_skipped_words :
    let e : Entry := { eseq := 7 }
    let y (q : BitVec 3) : Bay := { wBay 1 [] with wf := { valid := true, act := 1, qid := q, eseq := 7 }, mx := { port := some { ent := e, instr := .mxInit 0 6 } },
                                                   vx := { stopped := some { ent := e, instr := .vxChk 0 0 } }, kx := { job := some { ent := e, instr := .kxIld 1 2 } } }
    (y 0).mx.arrays = [] ∧ (y 0).mx.port.map (·.ent) = some e ∧ (y 0).wf.names e = true ∧ (y 1).vx.stopped ≠ none ∧ (y 1).vx.pend = [] ∧
      4 ≤ (y 4).wf.qid.toNat ∧ (y 4).kx.job.map (·.ent) = some e ∧ (y 4).wf.act = 1 := by decide

/-- Two READY tasks and one SAVED, bay 0 running and bay 1 free; a die with one dense bay, running; a policy 2 task whose
class has been busy for its limit. -/
theorem witness_dispatch :
    let x : TaskSlot := { state := .ready, age := 5 }
    let v : TaskSlot := { state := .saved, age := 9, saved := some { off := 0, len := 0, kind := 3, bayNo := 0, img := {} } }
    let s : State := { wState (wBay 0 []) with now := 10, yard := { (wState (wBay 0 [])).yard with slots := [(0, { state := .running }), (1, x), (2, { x with age := 6 }), (3, v)] } }
    s.ok = true ∧ x.cls = 0 ∧ ¬ bayAdmits s 3 (recAff x.record) 0 ∧ bayAdmits s 3 (recAff x.record) 1 ∧ s.canRestore v 1 = true ∧
      recPri x.record - (10 - 5) / 65536 = recPri x.record - (10 - 6) / 65536 ∧ x.age < 6 ∧ x.age < v.age := by unfold bayAdmits; decide

theorem witness_no_dispatch :
    let x : TaskSlot := { state := .ready, record := 0x20, code := { fclass := 4, fbusy := 5, usable := true } }
    let die : Die := { Die.reset with blive := [1] }
    let s : State := { wState (wBay 0 []) with die := die, yard := { (wState (wBay 0 [])).yard with slots := [(0, { state := .running }), (1, x)], busy := [5] } }
    s.ok = true ∧ (∀ b : BayNo, bayKind b = 3 → s.live b = true → (s.bay b).task ≠ none) ∧ s.live 0 = true ∧ recPol x.record = 2 ∧
      x.fallback = false ∧ x.code.usable = true ∧ x.code.fbusy ≠ 0 ∧ x.code.fbusy ≤ s.yard.busy.getD 0 0 ∧ bayKind 1 = 3 ∧
      (wState (wBay 0 [])).live 1 = true ∧ ((wState (wBay 0 [])).bay 1).task = none := by decide

/-- A task whose queues have all come to their notifies, with inline successors, with none, and with a list. -/
theorem witness_completion :
    let n : Queue := { ent := [{ kind := .notify }] }
    let y := { wBay 0 [] with gen := { (wBay 0 []).gen with parked := true }, mtx := n, vec := n, cin := n, cout := n }
    let s (r : TaskRecord) : State := { wState y with yard := { (wState y).yard with slots := [(0, { state := .ending, endf := true, record := r })] } }
    (s 0).populated 0 = true ∧ y.task ≠ none ∧ ((s 0).slot 0).endf = true ∧ y.gen.parked = true ∧ y.saving = false ∧ y.debugStop = false ∧
      (∀ q ∈ queueIds 3, y.idle q = true ∧ y.head? q = some { kind := .notify }) ∧ recList ((s 0).slot 0).record = false ∧
      recNsuc ((s 0).slot 0).record = 0 ∧ recNsuc ((s 0x400).slot 0).record = 2 ∧ recList ((s 0x2000).slot 0).record = true := by decide

/-- Two decrements of which the second comes first; targets that count, reach 0, and do not wait; a TASK.DEC that is awaited. -/
theorem witness_decrements :
    let d : Decrement := { src := 0, bay := 0, ctx := 0, dec := 2, target := 1, first := true, time := 4 }
    let y := { wBay 0 [] with gen := { (wBay 0 []).gen with wait := some (.yard (.taskDec 1) { ready := false }) } }
    let s : State := { wState y with now := 5, yard := { (wState y).yard with decs := [{ d with time := 5 }, d], slots := [(0, { state := .running }), (1, { state := .waiting, cntr := 1 }), (2, { state := .waiting, cntr := 2 })] } }
    s.yard.decs[1]? = some d ∧ d.time < 5 ∧ d.time ≤ s.now ∧ s.yard.unit.taken < 2 ∧ s.yard.unit.applied < 4 ∧ (s.slot 1).state = .waiting ∧ (s.slot 1).cntr = 1 ∧ (s.slot 2).cntr ≠ 1 ∧
      (s.slot 0).state ≠ .waiting ∧ d.bad = false ∧ { d with bad := true }.bad = true ∧ y.gen.wait = some (.yard (.taskDec 1) { ready := false }) ∧
      (s.bay 0).task = some d.src ∧ ((wState y).yard.decs = []) := by decide

/-- Graph 3 with a resident task, with none, without a done word, with one in reach, and with one past its buffer's end. -/
theorem witness_graphs :
    let g : Graph := { ntask := 1, ctx := 0, den := true, dbuf := 2, doff := 65528, sq := 0 }
    let s (r : BitVec 12) : State := { wState (wBay 0 []) with yard := { (wState (wBay 0 [])).yard with graphs := [(3, g)], slots := [(0, { state := .running, graph := r })] } }
    (s 0).yard.graphs.find? 3 = some g ∧ (s 0).yard.graphs.find? 4 = none ∧ (∃ e ∈ (s 3).yard.slots, e.2.state ≠ .free ∧ e.2.graph = 3) ∧
      ¬ (∃ e ∈ (s 0).yard.slots, e.2.state ≠ .free ∧ e.2.graph = 3) ∧ (s 0).buf? 0 2 = some { size := 65536 } ∧ 65528 + 8 ≤ 65536 ∧
      65536 < 65529 + 8 ∧ (s 0).unreachable 0 2 = false ∧ (s 0).home 0 2 = .mem (memKey 0 0 2 0) ∧ (s 0).reds = [] ∧ (s 0).hists = [] ∧
      (s 0).sides = [] ∧ { g with den := false }.den = false ∧ { g with killed := true }.killed = true := by decide

/-- A READY task of PRI 0 that has waited 1,024 cycles, the one live dense bay taken by a task of PRI 4 in a context with PRE
and a save area of 1 GiB. -/
theorem witness_preemption :
    let x : TaskSlot := { state := .running, record := 0x100 }
    let s : State := { wState (wBay 0 []) with now := 1024, die := { Die.reset with blive := [1] }, yard := { (wState (wBay 0 [])).yard with slots := [(0, x), (1, { state := .ready })], ctxs := [(0, { valid := true, pre := 1, svmib := 1024 })] } }
    s.ok = true ∧ recPri (s.slot 1).record = 0 ∧ 1024 ≤ s.now - (s.slot 1).age ∧ s.yard.preBusy.getLsbD 0 = false ∧
      (∀ b : BayNo, bayKind b = 3 → s.live b = true → (s.bay b).task ≠ none) ∧ (s.bay x.bay).task = some 0 ∧ (s.bay x.bay).saving = false ∧
      (s.ctx x.ctx).pre = 1 ∧ 4 ≤ recPri x.record ∧ (s.saveRoom x.ctx ((s.bay x.bay).saveBytes (bayKind x.bay))).isSome = true ∧
      recPri (s.slot 1).record < recPri x.record := by decide

/-- A save that may end and one behind an executing word; a container that restores and one without its magic; watchdogs at
their limits. -/
theorem witness_saves :
    let v : Saved := { off := 0, len := 65536, kind := 3, bayNo := 0, img := {} }
    let y := { wBay 0 [] with saving := true, saveCount := 1024 * 0x400, hangCount := 1024 * 0x100000 }
    let s (st : TaskState) (m : Mem) : State := { wState y with mem := m, yard := { (wState y).yard with slots := [(0, { state := st, saved := some v })] } }
    let a := memKey 0 0 0xFFFFFA 0
    let good : Mem := [(a, 0x5A), (a + 1, 0x57), (a + 2, 0x53), (a + 3, 0x56), (a + 5, 1), (a + 16, 1), (a + 17, 3)]
    let t := s .saved good
    let h : BitVec 512 := BitVec.ofNat 512 (leNat (t.homeBytes 0 0xFFFFFA 0 64))
    (s .running []).populated 0 = true ∧ y.task = some 0 ∧ ((s .running []).slot 0).saved = some v ∧ y.debugStop = false ∧ y.gen.wait = none ∧
      y.mx.arrays = [] ∧ y.kx.job = none ∧ (t.slot 0).state = .saved ∧ t.ok = true ∧ h.extractLsb' 0 32 = 0x5653575A ∧
      h.extractLsb' 40 8 = 1 ∧ h.extractLsb' 128 1 = 1 ∧ (h.extractLsb' 136 8).toNat = bayKind 0 ∧ (h.extractLsb' 160 32).toNat = 0 ∧
      (placeTiles [] (t.occupied 0 1) (savedTiles (sectionBytesOf (fun o n => t.homeBytes 0 0xFFFFFA o n) [] 8))).isSome = true ∧
      y.gen.hlimit ≠ 0 ∧ 1024 * y.gen.hlimit.toNat ≤ y.hangCount ∧ 1024 * max 1 ((s .running []).ctx 0).swlimit.toNat ≤ y.saveCount := by decide

/-- A submission queue of context 0: enabled, 40 dwords in its ring, a packet's dwords fetched. -/
def wSq (f : Sq → Sq := id) (ds : List W32 := []) : State :=
  { wState (wBay 0 []) with yard := { (wState (wBay 0 [])).yard with sqs := [(0, f { en := true, tail := 40, levels := [{ win := ds }] })] } }

theorem witness_queue_registers :
    let x := (wSq).sq 0
    let w := (wSq (fun x => { x with waiting := true, halt := true, stat := 6 })).sq 0
    (1023 : Nat) < 2 ^ x.lsize.toNat ∧ ¬ (1024 : Nat) < 2 ^ x.lsize.toNat ∧ x.en = true ∧ x.stat = 0 ∧ x.waiting = false ∧ x.left ≠ 0 ∧ x.levels = [] ++ [({} : Level)] ∧
      w.stat = 6 ∧ ((({} : State).sq 5).en = false) := by decide

/-- Packet addresses in use and not: 8 bytes at the end of buffer 2, past it, misaligned, and in host memory; comparisons that
hold and fail; a WAIT that holds its queue; a graph for WAITG; loops and indirect buffers in and out of place. -/
theorem witness_packets :
    let a : PAddr := { buf := 2, off := 65528 }
    let s := wSq
    let x := s.sq 0
    let pkt := (encodePacket (.wait 0 a 5)).getD (0, [])
    let held := wSq (fun x => { x with waiting := true }) (pkt.1 :: pkt.2)
    s.pktAddr 0 a 8 8 1 = true ∧ s.buf? 0 2 = some { size := 65536 } ∧ a.off.toNat + 8 ≤ 65536 ∧ a.off.toNat % 8 = 0 ∧
      readerRights 2 { size := 65536 } &&& 3 = 3 ∧ s.unreachable 0 2 = false ∧ 65536 < 65529 + 8 ∧ (65524 : Nat) % 8 ≠ 0 ∧
      s.isHost 0 2 = false ∧ s.isHost 0 3 = true ∧ (held.sq 0).waiting = true ∧
      (match held.turn 0 with | .run i u => i == .wait 0 a 5 && goesOn (exec i u) | .stay _ => false) = true ∧
      x.levels = [] ++ [({} : Level)] ∧ x.loop = none ∧ s.reds = [] ∧ s.hists = [] ∧ s.sides = [] ∧ s.buf? 0 9 = none := by decide

theorem witness_comparisons :
    compares 0 5 5 ∧ ¬ compares 0 5 6 ∧ compares 1 5 6 ∧ compares 2 5 6 ∧ ¬ compares 2 6 6 ∧ compares 3 6 6 ∧ compares 4 (-1) 0 ∧ ¬ compares 4 0 0 ∧
      compares 5 0 0 ∧ (∃ k, (6 : Word).getLsbD k = true ∧ (2 : Word).getLsbD k = true) ∧
      (∃ e ∈ [(0, ({ ntask := 1, ctx := 0, den := false, dbuf := 0, doff := 0, sq := 0 } : Graph))], e.2.sq = 0) := by
  have d {p : Prop} [Decidable p] (h : decide p = true) : p := of_decide_eq_true h
  exact ⟨(rfl : (5 : Word) = 5), d (p := ¬ (5 : Word) = 6) rfl, d (p := (5 : Word) ≠ 6) rfl, d (p := (5 : Word).toNat < (6 : Word).toNat) rfl,
    d (p := ¬ (6 : Word).toNat < (6 : Word).toNat) rfl, d (p := (6 : Word).toNat ≤ (6 : Word).toNat) rfl,
    d (p := (-1 : Word).toInt < (0 : Word).toInt) rfl, d (p := ¬ (0 : Word).toInt < (0 : Word).toInt) rfl,
    d (p := (0 : Word).toInt ≤ (0 : Word).toInt) rfl, ⟨1, by decide, by decide⟩, by decide⟩

/-- A graph image of one record at offset 0 of buffer 2, whose task can be placed, and one with POL 3. -/
theorem witness_launch :
    let image (p : Byte) : List (Nat × Byte) := [(0, 0x5A), (1, 0x57), (2, 0x47), (3, 0x49), (4, 1), (6, 0x40), (8, 1)] ++ if p = 0 then [] else [(64, p)]
    let a : PAddr := { buf := 2, off := 0 }
    let s (q : BitVec 17) (p : Byte) := { wSpawn q (image p) with yard := { (wSpawn q (image p)).yard with sqs := [(0, { en := true, tail := 40 })] } }
    let h : BitVec 512 := BitVec.ofNat 512 (leNat ((s 9 0).homeBytes 0 2 0 64))
    (s 9 0).ok = true ∧ (s 9 0).pktAddr 0 a 64 64 1 = true ∧ h.extractLsb' 0 64 = 0x004000014947575A ∧ (h.extractLsb' 64 32).toNat = 1 ∧
      h.extractLsb' 96 1 = 0 ∧ (s 9 0).pktAddr 0 a 128 64 1 = true ∧ (∀ e ∈ (s 9 0).yard.slots, e.1 = 1 → e.2.state = .free) ∧
      (s 9 0).yard.graphs = [] ∧ (s 9 0).resident 0 + 1 ≤ ((s 9 0).ctx 0).qslot.toNat ∧ ¬ (s 0 0).resident 0 + 1 ≤ ((s 0 0).ctx 0).qslot.toNat ∧
      ((s 9 0).judgeAll 0 1 ((s 9 0).imageRecords 0 a 1)).toOption.isSome = true ∧
      (s 9 0x30).judgeAll 0 1 ((s 9 0x30).imageRecords 0 a 1) = .error .malformed ∧ (s 9 0).pktAddr 0 { a with off := 32 } 64 64 1 = false := by
  decide

/-- Commands: busy, ended, of a context that is and is not; lowest free ids; a grant held, free and absent; a peer within the
domain. -/
theorem witness_commands :
    let s := wState (wBay 0 [])
    let x := s.ctx 1
    let c : State := { s with yard := { s.yard with bufs := [], ctxs := [(1, { evlg := 16, trlg := 10, rtkib := 4 })] } }
    let full := s.yard.bufs.put 0 {}
    let t : State := { s with yard := { s.yard with bufs := full }, sheds := [(0, { bars := [(31, { owner := some 0 })] })] }
    s.ok = true ∧ s.yard.cmd.busy = false ∧ { s.yard.cmd with busy := true }.busy = true ∧ s.yard.cmd.pend = none ∧
      { s.yard.cmd with pend := some (0, 5) }.pend = some (0, 5) ∧ s.boot.recov = false ∧ (s.ctx 0).valid = true ∧ x.valid = false ∧
      x.rtkib.toNat < 4 ∧ 4 ≤ (c.ctx 1).rtkib.toNat ∧ c.yard.bufs = [] ∧ (c.ctx 1).evlg.toNat ≤ 16 ∧ (c.ctx 1).trlg.toNat ≤ 10 ∧
      t.buf? 0 4 = none ∧ (∀ j : BitVec 3, j.toNat < 4 → t.buf? 0 (j.setWidth 24) ≠ none) ∧ (t.ctx 0).incs < 2 ^ 48 ∧ t.shedUp 0 = true ∧
      (Tab.get {} (t.shed 0).bars 31).owner = some 0 ∧ (Tab.get {} (t.shed 0).bars 30).owner = none ∧ (7 : BitVec 5).toNat < 8 := by decide

theorem witness_command_operands :
    let s := wState (wBay 0 [])
    let p : State := { s with die := { s.die with dsize := 2 }, yard := { s.yard with ctxs := [(0, { valid := true, dom := 1 })] } }
    let r : State := { s with boot := { s.boot with recov := true } }
    (0x1000 : Word).toNat % 4096 = 0 ∧ (0x1001 : Word).toNat % 4096 ≠ 0 ∧ ¬ 2 ^ 48 < (0x0001000000000000 : Word).toNat ∧
      2 ^ 48 < (0x0001000000000001 : Word).toNat ∧ p.die.dsize.toNat ≤ (2 : BitVec 6).toNat ∧ (1 : BitVec 6).toNat < p.die.dsize.toNat ∧
      (0 : BitVec 6) = p.die.pkg ∧ (1 : BitVec 6) ≠ p.die.pkg ∧ ((p.buf? 0 2).filter fun _ => (p.ctx 0).valid && (p.ctx 0).dom == 1) ≠ none ∧
      (s.buf? 0 2).filter (fun _ => (s.ctx 0).valid && (s.ctx 0).dom == 1) = none ∧ s.buf? 0 2 = some { size := 65536 } ∧
      (0 : Nat) * 2 ^ 16 < 65536 ∧ ¬ (1 : Nat) * 2 ^ 16 < 65536 ∧ r.boot.recov = true ∧ s.resident 0 ≠ 0 ∧ s.resident 1 = 0 := by decide

/-- Registers of queue 1 and context 1, requests at a home, links, resets and boots in the states that the clauses name. -/
theorem witness_system_events :
    let s := wState (wBay 0 [])
    let x := s.sq 1
    let h : State := { s with links := [(2, { up := false })] }
    let b : BootSt := { fails := 3 }
    s.populated 0 = true ∧ s.populated 0xFF = false ∧ x.func = 0 ∧ x.en = false ∧ (10 : BitVec 5).toNat = 10 ∧ x.stat ≠ 6 ∧ (s.ctx 1).valid = false ∧
      (s.ctx 0).valid = true ∧ s.buf? 0 2 = some { size := 65536 } ∧ (65528 : BitVec 48).toNat + 8 ≤ 65536 ∧ (s.ctx 0).dom ≠ 1 ∧
      s.die.dsize.toNat ≤ (1 : BitVec 6).toNat ∧ (23 : BitVec 5).toNat < 24 ∧ (Tab.get ({} : Link) h.links 23).up = true ∧
      (Tab.get ({} : Link) h.links 2).up = false ∧ s.ok = true ∧ (1 : BitVec 4) ≠ 0 ∧ 3 ≤ b.fails.toNat ∧ b.loadfw = none ∧ b.done = false ∧
      b.recov = false ∧ ¬ 3 ≤ ({} : BootSt).fails.toNat := by decide

/-- A boot whose image is below the fused version has a reason to fail; one whose key matches its fuse has none, where the free
constant that judges signatures (log 5) accepts its signature. -/
theorem witness_boot :
    (let b : BootSt := { minFuse := 1 }
     (if Config.sha3 (leBytes b.pubkey.toNat 32) ≠ b.keyFuse ∨ Config.mldsaVerify b.pubkey (Config.sha3 b.image) b.sign = false then (1 : Byte)
      else if b.secver.toNat < b.minFuse.toNat then 2 else 0) ≠ 0) ∧
    (Config.mldsaVerify 0 (Config.sha3 []) [] = true →
      let b : BootSt := { keyFuse := Config.sha3 (leBytes 0 32) }
      ¬ (Config.sha3 (leBytes b.pubkey.toNat 32) ≠ b.keyFuse ∨ Config.mldsaVerify b.pubkey (Config.sha3 b.image) b.sign = false) ∧
        ¬ b.secver.toNat < b.minFuse.toNat) := by
  refine ⟨?_, fun h => ⟨fun c => c.elim (fun k => k rfl) fun k => ?_, by decide⟩⟩
  · dsimp only; split <;> decide
  · rw [show Config.mldsaVerify 0 (Config.sha3 []) [] = false from k] at h; exact Bool.noConfusion h

/-- A generator at a code word in its instruction cache, a queue with a word, with a marker and with no instruction, a packet
in the window's place, an event, and the first step after reset. -/
theorem witness_step_runs_decoded :
    let y := wBay 0 []
    let s : State := { wState { y with icache := [(y.fetchKey 0, 0x13 :: List.replicate 63 0)] } with agenda := [.gen 0] }
    let q (k : EntryKind) (w : W32) : State := wHead 1 { kind := k, w := w }
    let p : State := { wSq with agenda := [.packet 0], host := [(2, 4)] }
    let x := p.sq 0
    y.task ≠ none ∧ y.gen.wait = none ∧ y.interrupt? = none ∧ y.gen.parked = false ∧ s.codeBreak y = none ∧ s.fetchFails (s.bay 0) = false ∧
      decodeGen (s.fetchWord 0 0).1 = .ok (.integerAlu (.ri .addi 0 0 0)) ∧ (s.bay 0).icache.find? (y.fetchKey 0) ≠ none ∧
      ((q .word 0x402312C0).bay 0).head? 1 = some { kind := .word, w := 0x402312C0 } ∧ ((q .word 0).bay 0).vx.stopped = none ∧
      (decodeWord 0x402312C0 []).toOption.isSome = true ∧ (decodeWord 0x4F800000 []).toOption = none ∧ atHead 1 { w := 0x4F800000 } (q .word 0x4F800000) ∧
      ((q (.marker 4) 0).bay 0).head? 1 = some { kind := .marker 4 } ∧ x.levels = [{}] ∧ x.en = true ∧ x.stat = 0 ∧ x.skip = 0 ∧
      p.levelDword x 0 = 0x00040000 ∧ 4 + 1 ≤ x.left ∧ headerOk 0x00040000 = true ∧ p.yard.dbg.pbp = [] ∧
      decodePacket 0x00040000 ((List.range 4).map fun k => p.levelDword x (k + 1)) = .ok (.nop 4) ∧ State.reset.agenda = [] ∧
      State.reset.boot.done = false := by unfold atHead; decide

/-- The encoder answers for terms of each kind; the decoder's words stand above. -/
theorem witness_encode :
    (encodeGen (.emits 10 11)).isSome = true ∧ (Instr.emits 10 11).wf = true ∧ (encodeWord (.mxInit 0 6)).isSome = true ∧
      (Instr.mxInit 0 6).wf = true ∧ (encodePacket (.loop 3 0)).isSome = true ∧ (Instr.loop 3 0).wf = true := by decide

/-- A step from a sound state that answers a next state, and one that faults. -/
theorem witness_step_keeps_ok :
    State.reset.ok = true ∧ goesOn (step { wState (wBay 0 []) with agenda := [.tick 3] }) = true ∧
      step { State.reset with agenda := [.event (.queueTake 0xFF)] } = .fault .absentBay := ⟨by decide, by decide, rfl⟩

/-! ### Witnesses at the corners: values that a lookaside, a wait, a stop or an earlier word changes -/

/-- Division: the overflow pairs, a divisor that is not zero, and zero; a shift amount below 32 and at it. -/
theorem witness_alu_values :
    let least : Word := 0x8000000000000000
    (least.toInt = -2 ^ 63 ∧ (-1 : Word).toInt = -1) ∧ ¬ (least.toInt = -2 ^ 63 ∧ (1 : Word).toInt = -1) ∧
      ((0x80000000 : Word).setWidth 32).toInt = -2 ^ 31 ∧ ((0xFFFFFFFF : Word).setWidth 32).toInt = -1 ∧
      (0x100000000 : Word).setWidth 32 = (0 : W32) ∧ (31 : BitVec 6).toNat < 32 ∧ ¬ (32 : BitVec 6).toNat < 32 := by decide

/-- A write of mstatus and of minstret in M mode, of sstatus in S mode, and of bbcbase with one count cached for a buffer at
its home. -/
theorem witness_csr_standard :
    let m := wState (wBay 3 [(10, 5)])
    let u := wState { wBay 1 [(10, 5)] with counters := [(2, 0, 1)] }
    m.csrRead 0 0x300 ≠ none ∧ (0x300#12).toNat ∉ zazinCsrs ∧ ((0x300#12).extractLsb' 8 2).toNat ≤ 3 ∧ (0x300#12).extractLsb' 10 2 ≠ 3 ∧
      m.csrRead 0 0xB02 ≠ none ∧ (0xB02#12).extractLsb' 10 2 ≠ 3 ∧ (0xB02#12).toNat ∉ zazinCsrs ∧ csrNewValue .rw 0 5 10 = some 5 ∧
      goesOn (exec (.csrAccess .rw 5 10 0x300) m) = true ∧ goesOn (exec (.csrAccess .rw 5 10 0xB02) m) = true ∧
      u.csrRead 0 0x100 ≠ none ∧ ((0x100#12).extractLsb' 8 2).toNat ≤ 1 ∧ (u.bay 0).counters = [(2, 0, 1)] ∧
      u.home 0 2 = .mem (memKey 0 0 2 0) ∧ goesOn (exec (.csrAccess .rw 5 10 0x5C8) u) = true := by decide

/-- Jumps and a taken branch to an aligned address past the code's end. -/
theorem witness_jumps_out :
    let s := wState { wBay 0 [(1, 0xFC00000000001000)] with csize := 8, gen := { (wBay 0 [(1, 0xFC00000000001000)]).gen with pc := 0xFC00000000000004 } }
    let y := s.bay 0
    let jal := y.gen.pc + ((0x800#20 ++ 0#1).signExtend 64)
    let jalr := (y.gen.rd 1 + (0#12).signExtend 64) &&& ~~~1#64
    let br := y.gen.pc + (2#12 ++ 0#1).signExtend 64
    jal.toNat % 4 = 0 ∧ s.pcOk y jal = false ∧ jalr.toNat % 4 = 0 ∧ s.pcOk y jalr = false ∧ br.toNat % 4 = 0 ∧ s.pcOk y br = false ∧
      s.pcOk y (br - 4) = true ∧ branchTaken .beq (y.gen.rd 3) (y.gen.rd 4) = true := by decide

/-- A lookaside entry of slot 0's buffer, with fewer rights and a smaller size than the tables give. -/
theorem witness_lookaside :
    let s := wState { wBay 0 [] with look := [(2, { rights := 1, size := 64 })] }
    let y := s.bay 0
    y.look.find? (0 * 2 ^ 24 + (2 : BufId).toNat) = some { rights := 1, size := 64 } ∧ y.slotCap 0 = some (some 2, 1) ∧
      y.caps.find? 0 = some { buf := 2, rights := 15 } ∧ s.checkAddr 0 .load 56 8 = .ok (.buf 2 56) ∧ s.checkAddr 0 .load 64 8 = .error 25 := by
  decide

/-- A dirty byte under way to its home, one that no line has, and no line of host memory. -/
theorem witness_fence_writes :
    let l : Line := { data := List.replicate 64 7, dirty := 2, mask := 1 }
    let s := { wState (wBay 0 []) with sheds := [(0, { cache := [(lineKey 0 2 64, l)] })] }
    s.ok = true ∧ dirtyAt s 0 0x7FFF (memKey 0 0 2 0 + 65) 7 ∧ ((s.shed 0).cache.find? (lineKey 0 2 64) = some l) ∧ l.mask &&& 0x7FFF ≠ 0 ∧ l.mask &&& 2 = 0 ∧
      s.isHost (keyCtx (lineKey 0 2 64)) (keyBuf (lineKey 0 2 64)) = false := by
  exact ⟨by decide, ⟨lineKey 0 2 64, { data := List.replicate 64 7, dirty := 2, mask := 1 }, memKey 0 0 2 0, 1, by decide⟩, by decide⟩

/-- A generator that waits with EMIT of a word that passes the checks, the room there. -/
theorem witness_room :
    let y := { wBay 0 [(1, 0x402312C0)] with gen := { (wBay 0 [(1, 0x402312C0)]).gen with wait := some (.poll (.emit 1) 0) } }
    let s := wState y
    s.populated 0 = true ∧ (s.bay 0).waitsFor = some (.emit 1) ∧ ¬ ended { s with cur := 0 } ∧
      y.checkWord (bayKind 0) ((y.gen.rd 1).extractLsb' 0 32) = none ∧ hasRoom y [] ((y.gen.rd 1).extractLsb' 0 32) := by
  refine ⟨by decide, by decide, ?_, by decide, by unfold hasRoom; decide⟩
  rintro ⟨k, hk, he⟩
  obtain rfl : (0 : TaskId) = k := by
    have : some (0 : TaskId) = some k := hk
    exact Option.some.inj this
  exact absurd he (by decide)

/-- CAP.XFER that waits, its target taken meanwhile, no memory word under way. -/
theorem witness_xfer_judged_again :
    let y := { wBay 0 [(1, 0), (2, 1)] with gen := { (wBay 0 [(1, 0), (2, 1)]).gen with wait := some (.poll (.capXfer 1 2) 0) } }
    let s := { wState y with yard := { (wState y).yard with slots := [(0, { state := .running }), (1, { state := .running })] } }
    (s.bay 0).memoryDone = true ∧ (y.gen.rd 1).extractLsb' 6 58 = 0 ∧ ((s.slot 1).state ≠ .waiting) ∧ y.gen.wait = some (.poll (.capXfer 1 2) 0) ∧
      goesOn (exec (.capXfer 1 2) s) = true := by decide

/-- A wait on shed barrier 64 that REVOKE has taken from the context, at its limit and before it; one that is satisfied; a
put and a get on ring 0, taken likewise. -/
theorem witness_waits_taken :
    let x : Tab Word := [(1, 64), (2, 3), (3, 5), (4, 0x00010000)]
    let y (i : Instr) : Bay := { wBay 0 x with bars := [(3, { exp := 1, gen := 1 })], gen := { (wBay 0 x).gen with wait := some (.poll i 0) } }
    let s (i : Instr) := wState (y i)
    ¬ mayName (s (.barWait 1 0)) 0 64 ∧ ((y (.barWait 1 0)).gen.rd 0).toNat ≤ (y (.barWait 1 0)).gen.waited ∧
      (y (.barWait 1 3)).gen.waited < ((y (.barWait 1 3)).gen.rd 3).toNat ∧ (s (.barWait 2 3)).populated 0 = true ∧
      (y (.barWait 2 3)).waitsFor = some (.barWait 2 3) ∧ mayName (s (.barWait 2 3)) 0 3 ∧
      1 ≤ (((s (.barWait 2 3)).barrier 0 3).gen - (y (.barWait 2 3)).wcntOf 0 3).toNat ∧ ((x.find? 2).getD 0).extractLsb' 7 57 = 0 ∧
      ((s (.ringPut 4 0)).ring 0 0).owner ≠ some 0 ∧ (y (.ringPut 4 0)).gen.wait = some (.poll (.ringPut 4 0) 0) ∧
      (y (.ringGet 5 0 3)).gen.wait = some (.poll (.ringGet 5 0 3) 0) ∧ ¬ ((y (.ringGet 5 0 3)).gen.rd 3).toNat ≤ 0 := by
  unfold mayName; decide

/-- A sy.wait judged before, on a shed barrier taken since; a sy.arrive the same; a context that traces. -/
theorem witness_sync_taken :
    let e : Entry := { since := some 7 }
    let s := wHead 1 e
    let t := { s with yard := { s.yard with ctxs := [(0, { valid := true, tren := 1 })] } }
    atHead 1 e s ∧ e.since ≠ none ∧ ¬ mayName s 0 64 ∧ (t.ctx 0).tren = 1 ∧ t.ok = true := by
  unfold atHead mayName; decide

/-- A word with a field value its entry calls illegal, and one without; a word issued behind an OVW = 1 word on its set. -/
theorem witness_matrix_issue_fields :
    let p : MxPair := { fa := 1, fb := 0, so := 0, sat := 0, ga2 := 0, gb2 := 1, g := 1 }
    let m : Mx := { cfg := { afmt := 1 }, arrays := [{ instr := wMma 1, cfg := { afmt := 1 } }] }
    (Instr.mxMmw p 0 1 0 0 1).wf = false ∧ (wMma 1).wf = true ∧ (m.set 0).afmt = 0 ∧ m.shape 0 = (127, 127, 1) ∧
      m.shape 0 = (m.cfg.m1, m.cfg.n1, m.cfg.afmt) ∧ (mulWord? (wMma 1)).map (·.set) = some 0 ∧ (mulWord? (wMma 1)).map (·.ovw) = some 1 := by
  decide

/-- Integer groups with a word behind that clears the set, at the last group; a group on an FP32 set of one row and column
whose operands and scales are numbers. -/
theorem witness_groups :
    let j : MxJob := { instr := wMma 0 }
    let x : MxJob := { instr := wMma 1 }
    let s := wMx { cfg := { afmt := 1 }, acc0 := { afmt := 1, ms1 := 1, ns1 := 1 }, arrays := [j, x] }
    let p : MxPair := { fa := 1, fb := 0, so := 0, sat := 0, ga2 := 1, gb2 := 0, g := 1 }
    let g : MxJob := { instr := wMma 0 p, descA := wDesc.set 2 0x21 }
    let f := wMx { acc0 := { ms1 := 0, ns1 := 0 }, arrays := [g] }
    let a := (f.bay 0).mx.set 0
    (1 : Nat) ≤ j.upc + 1 ∧ ([x].find? fun x => (mulWord? x.instr).any fun w => w.set == 0) = some x ∧ (s.bay 0).mx.arrays = [j, x] ∧
      f.populated 0 = true ∧ (f.bay 0).mx.arrays = [g] ∧ (mulWord? g.instr).isSome = true ∧ (f.bay 0).halted = false ∧ a.afmt = 0 ∧
      (match mulWord? g.instr with
      | none => false
      | some w => match f.scalesA 0 g w g.upc a.ms with
        | .error _ => false
        | .ok (la, s1) => decide (la.getD 0 0 < 255) && (s1.scalesB 0 g w g.upc a.ns).toOption.isSome) = true ∧
      (decodeVal 12 (a.elem 0 0).toNat).finite = true ∧ (decodeVal 12 (weightScale (f.bay 0).mx g 0 0).bits.toNat).finite = true ∧
      (∀ n, n < pairKd p.fa p.fb → (f.opA 0 g 0 n).finite = true ∧ (f.opB 0 g n 0).finite = true) := by decide

/-- The last rows of a drain without scales, of a requantisation, and of a drain with scales. -/
theorem witness_drains :
    let plain : MxJob := { instr := .mxDrain 4 0 0 0 0 0 6 }
    let f : MxRq := { osgn := 1, rnd := 0, z := 0, oz := 0, tm := 6, ts := 1, rsen := 1, set := 0, zaft := 0, tr := 6, td := 2 }
    let vec : Desc := (wDesc.set 2 0x1C).set 3 4
    let scaled : MxJob := { instr := .mxDrain 4 0 1 0 0 0 6, descA := vec, descB := vec }
    let m (j : MxJob) (afmt : BitVec 1) := wMx { acc0 := { afmt := afmt, ms1 := 1, ns1 := 3 }, port := some j }
    let s := wMx { acc0 := { ms1 := 0, ns1 := 0 }, port := some scaled }
    let y := s.bay 0
    fmtOk 4 = true ∧ (4 : BitVec 4) ≠ 7 ∧ ((m plain 0).bay 0).halted = false ∧ ((m plain 0).bay 0).mx.port = some plain ∧ 1 < (y.tile 6).rows ∧
      3 < (y.tile 6).cols ∧ (y.tile 6).fmt = 4 ∧ ((m { instr := .mxRq f } 1).bay 0).mx.port = some { instr := .mxRq f } ∧
      apart (y.tile 2) (y.tile 6) ∧ apart (y.tile 2) (y.tile 1) ∧ 3 < (y.tile 1).cols ∧ 1 < (y.tile 2).rows ∧ 3 < (y.tile 2).cols ∧
      (y.tile 2).fmt = 0 ∧ scaled.upc = (y.mx.set 0).ms1.toNat ∧
      (match s.readScales 0 0 scaled.descA [[(scaled.upc : Int)]] with
      | .ok ([x], s1) => (decodeVal 12 x).finite && (match s1.readScales 0 0 scaled.descB [[0]] with
        | .ok (cs, _) => (decodeVal 12 (cs.getD 0 0)).finite
        | .error _ => false)
      | _ => false) = true ∧ (decodeVal 12 ((y.mx.set 0).elem 0 0).toNat).finite = true := by unfold apart; decide

/-- Slot 8 segmented, its lengths in tile 8: a length with a write that has yet to land; a computing word with an illegal
field; a sum over the segments, an ordered word. -/
def wSeg (vx : Vx := {}) : State :=
  let s := wVx { vx with slots := [] }
  let y := s.bay 0
  { s with bays := [(0, { y with
      vx := { y.vx with slots := y.vx.slots.put 8 { kind := 2, tile := 1, stride := 1, tl := 8, nseg := 2 } }
      tiles := y.tiles.put 8 { alloc := 1, state := 2, fmt := 3, cols1 := 1, base := 5 }
      store := [(0, 1), (320, 3), (322, 4)] })] }

theorem witness_vector_lengths :
    let s := wSeg { chk := 1, pend := [{ land := 9, tile := 8, cells := [(1, 4)] }] }
    let y := s.bay 0
    let w := vxBin 0 { s := 2, d := 3, a := 8, b := 2, t := 12, r := 0, m := 0 }
    let slots := y.vxSlots w
    let sum := Instr.vxRsum { s := 0, d := 3, a := 8, t := 12, r := 0, m := 0 }
    let t := wSeg
    (slots.find? 1).map (·.kind) = some 2 ∧ y.vx.lenHazard slots 8 = some (8, 1) ∧ y.vx.lenHazard slots 9 = none ∧
      (Instr.vxAdd { s := 2, d := 3, a := 8, b := 2, t := 15, r := 0, m := 0 }).wf = false ∧
      (Instr.vxAdd { s := 2, d := 3, a := 8, b := 2, t := 12, r := 0, m := 0 }).wf = true ∧
      ((vxWord? sum).map fun w => vxOrdered w.op && vxReduces w.op) = some true ∧ sum.wf = true ∧ atHead 1 {} t ∧
      ((vxWord? sum).map fun w =>
        let y := t.bay 0
        let slots := y.vxSlots w
        let src := t.vxSrcs 0 slots (t.slotLens 0 slots 0)
        (y.missing 1 (slotTiles slots) == none) && (firstFail (t.vxChecks 0 w src) == none) &&
          (src.find? 1).map vxSegments == some [3, 4]) = some true := by unfold atHead; decide

/-- Slots 1 to 3 as in wVx, slot 8 an I32 index slot of 16, slot 9 one of 4 counters, slot 15 a selector of 16. -/
def wOrd : State :=
  let s := wVx
  let y := s.bay 0
  let t (b : Nat) : Tile := { alloc := 1, state := 2, fmt := 4, cols1 := 15, base := b }
  { s with bays := [(0, { y with
      vx := { y.vx with slots := y.vx.slots ++ [(8, { kind := 1, tile := 8, stride := 1, count := 16 }),
        (9, { kind := 1, tile := 9, stride := 1, count := 4 }), (15, { kind := 1, tile := 10, stride := 1, count := 16 })] }
      tiles := y.tiles ++ [(8, t 5), (9, t 6), (10, t 7)]
      store := [(320, 1), (324, 16), (328, 1), (448, 1), (452, 2)] })] }

/-- A scan, a gather and a scatter with an index that repeats and one outside, a compaction and both histograms. -/
theorem witness_ordered_words :
    let s := wOrd
    atHead 1 {} s ∧ ∀ e ∈ [(0x2B, Instr.vxSsum { s := 0, d := 3, a := 1, t := 12, r := 0, m := 0 }),
        (0x30, .vxGath { s := 0, d := 3, a := 1, b := 8, t := 12, r := 0, m := 0 }),
        (0x31, .vxScat { s := 0, d := 3, a := 1, b := 8, t := 12, r := 0, m := 0 }),
        (0x32, .vxCmpct { s := 0, d := 3, a := 1, b := 9, t := 12, r := 0, m := 1 }),
        (0x33, .vxHist { s := 0, d := 9, a := 8, t := 4, r := 0, m := 0 } 3 0 0),
        (0x33, .vxHist { s := 0, d := 9, a := 1, t := 12, r := 0, m := 0 } 3 1 0)],
      e.2.wf = true ∧ ((vxWord? e.2).map fun w =>
        let y := s.bay 0
        let slots := y.vxSlots w
        let src := s.vxSrcs 0 slots (s.slotLens 0 slots 0)
        w.op == e.1 && vxOrdered w.op && (y.missing 1 (slotTiles slots) == none) && (firstFail (s.vxChecks 0 w src) == none) &&
          (src.find? 0).any (fun d => d.stride != 0)) = some true := by unfold atHead; decide

/-- One executing copy of each kind at row 0 of 1: a cp.t2t, a cp.gath and a cp.scat by index tile 4, a cp.red with its residual
in tile 5, a cp.peer with a signal in buffer 1. -/
def wCpJob (i : Instr) : State :=
  let j : CpJob := { instr := i, desc := wDesc, desc2 := (wDesc.set 1 0x8000000000000001), origin := List.replicate 8 0 }
  let s := wCp { jobs := [j] }
  let y := s.bay 0
  { s with bays := [(0, { y with tiles := y.tiles ++ [(4, { alloc := 1, state := 2, fmt := 4, base := 2 }),
    (5, { alloc := 1, state := 2, fmt := 12, cols1 := 3, base := 3 })] })] }

theorem witness_copies_by_kind :
    ∀ e ∈ [(6, Instr.cpT2t 0 20 2 1 0), (7, .cpGath 0 1 20 1 4), (8, .cpScat 0 1 20 2 4), (9, .cpRed 0 1 20 2 0 0 1 5), (10, .cpPeer 0 1 20 2 1 21)],
      let s := wCpJob e.2
      let y := s.bay 0
      s.populated 0 = true ∧ s.ok = true ∧ s.yard.dbg.wp = [] ∧ y.saving = false ∧ y.wf.valid = false ∧
        (match (y.cp 0).jobs, cpWord? e.2 with
        | [j], some w =>
          let u := y.tile w.h
          let idx (c : Nat) := (addAt (s.cpCoord 0 j w 0) 0 c).take (Desc.rank j.desc)
          w.op == e.1 && w.q == 0 && j.upc == 0 && (y.tile w.shape).rows == 1 && Desc.fmt j.desc == u.fmt && !j.srcDone &&
            !s.histRemote 0 j.desc && !s.sideRemote 0 j.desc && !s.onWay (fun x => x.bay == 0 && x.q == 0 && x.cls == w.cls && x.seqNo != j.ent.seqNo) && !s.onWay (j.sent 0 0) && !j.merged && !Desc.hen j.desc && !Desc.sen j.desc &&
            ((List.range 4).all fun c => coordInside j.desc (addAt (s.cpCoord 0 j w 0) 0 c) && (s.elemFault 0 j.desc (idx c) == none)) &&
            ((List.range 4).all fun c => (List.range 4).all fun d =>
              c == d || decide (32 ≤ (descBit j.desc (idx c) - descBit j.desc (idx d)).natAbs)) &&
            decide (w.h ≠ w.h2) && (w.op != 10 || w.sig && (s.home 0 (Desc.buf j.desc) == .mem (memKey 0 0 2 0)) &&
              (s.home 0 (Desc.buf j.desc2) == .mem (memKey 0 0 1 0)) && !s.unreachable 0 (Desc.buf j.desc2) &&
              decide (Desc.off j.desc2 + 4 ≤ 2 ^ 48))
        | _, _ => false) = true ∧ apart (y.tile 1) (y.tile 4) ∧ (y.tile 1).rows ≤ (y.tile 4).size ∧ apart (y.tile 2) (y.tile 1) ∧ apart (y.tile 2) (y.tile 5) := by
  unfold apart; decide

/-- A cp.drain at BAY scope with nothing of its class under way; a cp.gath that fills the tile it takes its indices from; a
FLOAT conversion with a residual. -/
theorem witness_copy_corners :
    ((wCp).bay 0).drainPending 1 0 = false ∧ ((cpWord? (.cpGath 0 1 20 1 1)).map fun w => w.op == 7 && w.h == w.h2) = some true ∧
      ((cpWord? (.cpGath 0 1 20 1 1)).map fun w => w.tiles.contains 1) = some true ∧ fmtIsFloat 12 = true ∧ fmtIsFloat 10 = true ∧
      (decodeVal 12 0x3F800000).finite = true ∧ (decodeVal Fmt.fp32 0x3F800000).finite = true := by decide

/-- Two values of one class and queue on their way, the second of which waits; a shed whose lines are clean, and one with a
dirty line of the element's. -/
theorem witness_arrival_order :
    let r : Red := { ctx := 0, buf := 2, bit := 0, fmt := 4, op := 0, bits := 7, src := { bay := 0, q := 0, cls := 1 } }
    let s := { wState (wBay 0 []) with reds := [r, r] }
    let like (x : Red) : Prop := x.src.bay = r.src.bay ∧ x.src.q = r.src.q ∧ x.src.cls = r.src.cls
    (∃ x ∈ s.reds.take 1, like x) ∧ ¬ (∃ x ∈ s.reds.take 0, like x) ∧
      s.reds[0]? = some r ∧ r.side = none ∧ s.yard.dbg.wp = [] ∧ r.bits < 2 ^ 32 ∧ r.bit % 32 = 0 ∧
      (s.shed 0).cache = [] := by decide

/-- Sort words of every kind that execute on tile 4, an I32 tile of 8, with a count tile and segments of 1 and 2 in tile 5. -/
theorem witness_sort_words_by_kind :
    let f : KxKey := { kt := 1, desc := 0, ven := 1, tv := 6, tk := 4 }
    ∀ e ∈ [(8, Instr.kxSort f 8 7 1), (3, .kxMerge f 5 2), (3, .kxSsort f 5 2), (8, .kxCmpct 1 1 6 4 8 7 1), (8, .kxUniq 1 1 6 4), (8, .kxTopk f 8 3)],
      let j : KxJob := { instr := e.2, n := e.1 }
      let s0 := wKx 0xE0 { job := some j }
      let y0 := s0.bay 0xE0
      let s := { s0 with bays := [(0xE0, { y0 with
        tiles := [(4, { alloc := 1, state := 2, fmt := 4, cols1 := 7 }), (5, { alloc := 1, state := 2, fmt := 4, cols1 := 7, base := 1 }),
                  (6, { alloc := 1, state := 2, fmt := 4, cols1 := 7, base := 2 }), (7, { alloc := 1, state := 2, fmt := 4, base := 3 })]
        store := [(64, 1), (68, 2)] })] }
      let y := s.bay 0xE0
      s.populated 0xE0 = true ∧ y.kx.job = some j ∧ y.kxHeld j = false ∧
        (match kxSortWord? e.2 with
        | some w => decide (w.kt < 4) && (fmtBits (y.tile w.tk).fmt == 32) && (fmtBits (y.tile w.tv).fmt == 32) && decide (j.n ≤ (y.tile w.tk).size) &&
            (w.seg == none || (s.sortLens 0xE0 w).sum == j.n) && (w.tcn == none || w.tcn == some 7)
        | none => false) = true ∧ apart (y.tile 4) (y.tile 6) ∧ apart (y.tile 7) (y.tile 4) ∧ apart (y.tile 7) (y.tile 6) := by
  unfold apart; decide

/-- A sparse word of every kind that executes with a header of one row, one column and one entry. -/
theorem witness_sparse_by_kind :
    let m : KxMul := { flag := 1, tx := 2, ti := 1, tb := 3, out := 4, rnd := 0, sat := 0 }
    ∀ e ∈ [(1, Instr.kxSpmm m), (16, .kxBspmm m), (1, .kxSddmm m), (1, .kxSpadd 1 0 2 1 4 0 0), (16, .kxSpadd 0 1 2 1 4 0 0)],
      let j : KxJob := { instr := e.2, head := { m := 1, nc := 1, nnz := 1 } }
      let u := e.1
      let s0 := wKx 0x80 { job := some j }
      let y0 := s0.bay 0x80
      let t (b r c : Nat) (f : Fmt) : Tile := { alloc := 1, state := 2, fmt := f, rows1 := BitVec.ofNat 12 (r - 1), cols1 := BitVec.ofNat 12 (c - 1), base := b }
      let s := { s0 with bays := [(0x80, { y0 with tiles := [(1, t 0 1 8 4), (2, t 1 u u 0), (3, t 20 u u 0), (4, t 40 u u 4)] })] }
      let y := s.bay 0x80
      s.populated 0x80 = true ∧ y.kx.job = some j ∧ y.kxHeld j = false ∧ s.rowBreak 0x80 (y.tile 1) j.head 0 = none ∧ 1 + 3 + 1 ≤ (y.tile 1).size ∧ (y.tile 4).fmt = 4 ∧
        fmtIsInt (y.tile 2).fmt = true ∧ u ≤ (y.tile 4).rows ∧ u ≤ (y.tile 3).rows ∧ (y.tile 4).cols ≤ (y.tile 3).cols ∧ u ≤ (y.tile 4).cols ∧
        (y.tile 2).cols ≤ (y.tile 3).rows ∧ 1 ≤ (y.tile 4).size ∧ u * u ≤ (y.tile 2).size ∧
        apart (y.tile 4) (y.tile 1) ∧ apart (y.tile 4) (y.tile 2) ∧ apart (y.tile 4) (y.tile 3) := by unfold apart; decide

/-- TASK.SPAWN of a record whose code object has no path, and LAUNCH of one. -/
theorem witness_code_out_of_reach :
    let s := wSpawn 9 []
    let far : State := { s with remote := [5], yard := { s.yard with bufs := s.yard.bufs.put 1 { size := 4096, imp := some (5, 0, 9) } } }
    let w : TaskRecord := BitVec.ofNat 512 (leNat ((genRead s 0x100 64 0).toOption.map (·.1) |>.getD []))
    recMalformed 0 w = false ∧ far.judgeRecord 0 0 w = .error .remote ∧ far.judgeAll 0 1 [w] = .error .remote := by decide

/-- A fault of a copy with its queue's jobs executing, one of mx.ldw in the arrays, and the second prefix of a faulting word at
the head. -/
theorem witness_fault_corners :
    let e : Entry := { eseq := 7, pfx := [1, 2] }
    let w (q : BitVec 3) : WordFault := { valid := true, act := 1, qid := q, eseq := 7 }
    let y : Bay := { wBay 1 [] with wf := w 2, cpIn := { jobs := [{ instr := .cpIn 1 20 1, ent := e }] }, vec := { ent := [e] },
                                    mx := { arrays := [{ instr := .mxLdw 0 0 0 1 0 1, ent := e }] } }
    (y.cp 0).jobs[0]?.map (·.ent) = some e ∧ y.wf.names e = true ∧ y.vx.pend = [] ∧ y.mx.arrays[0]?.map (·.ent) = some e ∧
      y.mx.port = none ∧ (Bay.statusEntry { y with wf := w 1 } 1).map Entry.pfx = some [1, 2] ∧ { y with debugStop := true }.debugStop = true := by
  decide

/-- A saved task whose restore another bay reads already; a class that has moved a task in this cycle. -/
theorem witness_dispatch_once :
    let v : Saved := { off := 0, len := 0, kind := 3, bayNo := 0, img := {} }
    let x : TaskSlot := { state := .saved, saved := some v, bay := 1 }
    let s : State := { wState (wBay 0 []) with
      bays := [(0, wBay 0 []), (1, { task := some 3, saving := true })]
      yard := { (wState (wBay 0 [])).yard with slots := [(0, { state := .running }), (3, x)], fellBack := 1 } }
    ((s.bay x.bay).saving = true ∧ (s.bay x.bay).task = some (BitVec.ofNat 16 3)) ∧ s.yard.fellBack.getLsbD 0 = true ∧
      s.yard.fellBack.getLsbD 1 = false := by decide

/-- Saves held by a fault whose executing word must retire, by a resumed vector word, and by a class-engine word in a row;
kills that are due: of a hang, of a save, of a container without its magic, of a fault in M mode. -/
theorem witness_save_corners :
    let v : Saved := { off := 0, len := 65536, kind := 3, bayNo := 0, img := {} }
    let w : WordFault := { valid := true, index := 5 }
    let y := { wBay 0 [] with saving := true }
    let row : Bay := { y with wf := w, mx := { arrays := [{ instr := wMma 1 { fa := 1, fb := 0, so := 0, sat := 0, ga2 := 0, gb2 := 0, g := 2 }, upc := 1, index := 3 }] } }
    let vec : Bay := { y with vx := { stopped := some { instr := .vxChk 0 0 } } }
    let cls : State := wState { y with kx := { job := some { instr := .kxIld 1 2 } } } 0x80
    let s (y : Bay) (st : TaskState) : State := { wState y with yard := { (wState y).yard with slots := [(0, { state := st, saved := some v })] } }
    let hang : Bay := { wBay 0 [] with hangCount := 1024 * 0x100000, hangOnce := true }
    let late : Bay := { y with saveCount := 1024 * 0x400 }
    (wState row).mustRetire 0 = true ∧ row.wf.valid = true ∧ (∃ j, vec.vx.stopped = some j ∧ j.due = none) ∧ cls.kxStands 0x80 = false ∧
      (s y .running).kxStands 0 = true ∧ hang.gen.hlimit ≠ 0 ∧ 1024 * hang.gen.hlimit.toNat ≤ hang.hangCount ∧ hang.hangOnce = true ∧
      1024 * max 1 ((s late .running).ctx 0).swlimit.toNat ≤ late.saveCount ∧ ((s late .running).slot 0).state ≠ .saved ∧
      (∃ x v, (s y .saved).toRestore 0 = some (0, x, v) ∧
        containerOk ((s y .saved).containerHead x v) ((s y .saved).containerDir x v) (bayKind 0) = false) ∧
      { (wBay 3 []).gen with mfault := true }.mfault = true := by
  refine ⟨by decide, by decide, ⟨_, rfl, rfl⟩, by decide, by decide, by decide, by decide, by decide, by decide, by decide, ⟨_, _, rfl, by decide⟩,
    by decide⟩

/-- The package once ready and not, a REMAP with a page of the index at a loft, an import of what the package names and of the
firmware's own. -/
theorem witness_command_states :
    let s : State := { wState (wBay 0 []) with boot := { done := true } }
    (s.boot.recov = false ∧ s.boot.done = true) ∧ (wState (wBay 0 [])).boot.done = false ∧
      (∃ n, n < 8 ∧ ∃ f, s.buf? 0 2 = some f ∧ (0 : Word).toNat < f.pagesAt n) ∧
      ¬ (∃ n, n < 8 ∧ ∃ f, s.buf? 0 9 = some f ∧ (0 : Word).toNat < f.pagesAt n) ∧ (0 : BitVec 6).toNat < s.die.dsize.toNat ∧
      (2 : BufId) ≠ 0xFFFFF9 ∧ { s.ctx 0 with evlg := 16, trlg := 10 }.evlg.toNat ≤ 16 := by
  refine ⟨by decide, by decide, ⟨0, by decide, { size := 65536 }, by decide, by decide⟩, ?_, by decide, by decide, by decide⟩
  rintro ⟨n, -, f, hf, -⟩
  exact absurd (hf.symm.trans (show _ = none by decide)) (by simp)

/-- Debug stops to restart, with no write in flight; a recovery boot that shows the last reason. -/
theorem witness_restarts :
    let s := wState { wBay 0 [] with debugStop := true, vx := { stopped := some { instr := .vxChk 0 0 } } }
    let b : BootSt := { fails := 3, lastReason := 2 }
    s.ok = true ∧ (s.bay 0).debugStop = true ∧ (s.bay 0).vx.pend = [] ∧ (s.bay 1).debugStop = false ∧ 3 ≤ b.fails.toNat ∧ b.loadfw = none := by
  decide

/-- Boundaries: a fault in M mode not yet answered; each interrupt taken; a breakpoint's and a code range's edge; a queue with
a lower one before it, one ahead of which a wide fence stands, one drained to its notify. -/
theorem witness_step_boundaries :
    let y (m : BitVec 2) (c : Tab Word) : Bay := { wBay m [] with gen := { (wBay m []).gen with csr := c } }
    let hang : Bay := y 0 (((resetCsr.put 0x304 0x30000).put 0x303 0).put 0x344 0x20000)
    let fault : Bay := { hang with wf := { valid := true } }
    let past : Bay := { wBay 0 [] with gen := { (wBay 0 []).gen with pc := 0xFC00000000001000 } }
    let n : Entry := { kind := .notify }
    let two : Bay := { wBay 0 [] with mtx := { ent := [{}] }, vec := { ent := [{}] } }
    let s := wState (wBay 0 [])
    s.overfull = none ∧ { (wBay 3 []).gen with mfault := true }.mfault = true ∧ hang.mip.getLsbD 17 = true ∧
      (hang.gen.csrRd 0x304).getLsbD 17 = true ∧ (hang.gen.csrRd 0x303).getLsbD 17 = false ∧ hang.gen.mode ≠ 3 ∧ hang.mip.getLsbD 16 = false ∧
      fault.mip.getLsbD 16 = true ∧ (fault.gen.csrRd 0x304).getLsbD 16 = true ∧ past.gen.pc.toNat % 2 ^ 32 = past.csize ∧
      s.codeBreak past = none ∧ (wBay 0 []).gen.pc.toNat / 2 ^ 32 = 63 * 2 ^ 26 ∧ (wBay 0 []).pcBuf = some 1 ∧
      two.head? 0 ≠ none ∧ two.judged = 0 ∧ (two.head? 1).isSome = true ∧ { two with judged := 1 }.judged = 1 ∧
      two.forked < ({ fork := 1 } : Entry).fork ∧ ({ wBay 0 [] with vec := { ent := [n] } }.head? 1) = some n ∧
      { wBay 0 [] with vec := { ent := [n] } }.idle 1 = true := by decide

/-- A vector word that stands at a hazard, alone and behind a fault that an earlier cycle recorded. -/
theorem witness_vector_due :
    let j : VxJob := { instr := wAdd 3, due := some (1, 0) }
    let y := (wVx { stopped := some j }).bay 0
    (vxWord? j.instr).isSome = true ∧ y.vx.stopped = some j ∧ y.task ≠ none ∧ y.saving = false ∧ y.debugStop = false ∧
      y.wf.valid = false ∧ { y with wf := { valid := true } }.wf.fresh = false := by decide

/-- A cp.drain with nothing on its way, with a value on its way, and with one that is lost. -/
theorem witness_drains_lost :
    let e : Entry := { seqNo := 3 }
    let r (b : BufId) : Red := { ctx := 0, buf := b, bit := 0, fmt := 4, op := 0, bits := 7, src := { bay := 0, q := 0, cls := 1 } }
    let sent : Sender → Bool := fun x => x.bay == 0 && x.cls == 1 && decide (x.seqNo < e.seqNo)
    let s := wCp {} e
    let far : State := { s with remote := [5], reds := [r 9],
                                yard := { s.yard with bufs := s.yard.bufs.put 9 { size := 4096, imp := some (5, 0, 9) } } }
    s.onWay sent = false ∧ s.lostFrom sent = none ∧ { s with reds := [r 2] }.onWay sent = true ∧
      { s with reds := [r 2] }.lostFrom sent = none ∧ far.lostFrom sent ≠ none := by decide

/-- A row whose column lies past NC, with its pointers in order. -/
theorem witness_index_stops :
    let j : KxJob := { instr := wSpmm, head := { m := 1, nnz := 1 } }
    let s := wKx 0x80 { job := some j }
    let y := s.bay 0x80
    s.populated 0x80 = true ∧ y.kx.job = some j ∧ y.kxHeld j = false ∧ y.wf.valid = false ∧ j.head.m ≤ (y.tile 4).rows ∧
      1 + 3 + 1 ≤ (y.tile 1).size ∧ s.rowBreak 0x80 (y.tile 1) j.head 0 = some 4 ∧ apart (y.tile 4) (y.tile 1) := by
  unfold apart; decide

/-- TASK.SPAWN of a record past its buffer's end, and of one under a watchpoint. -/
theorem witness_spawn_faults :
    let s := wSpawn 9 []
    let w : State := { s with yard := { s.yard with dbg := (wWatch s).yard.dbg } }
    s.checkAddr 0 .load ((s.bay 0).gen.rd 5) 64 = .error 25 ∧ ((s.bay 0).gen.rd 5).toNat % 64 = 0 ∧
      w.checkAddr 0 .load 0xFC0 64 = .ok (.buf 2 0xFC0) ∧ w.watchGen 0 2 0xFC0 64 0 .load = some false := by decide

/-- A queue whose WAIT waits, with its dwords fetched. -/
theorem witness_wait_reread :
    let i := Instr.wait 0 { buf := 2, off := 65528 } 5
    let p := (encodePacket i).getD (0, [])
    let x := (wSq (fun x => { x with waiting := true }) (p.1 :: p.2)).sq 0
    i.wf = true ∧ encodePacket i = some p ∧ x.levels = [] ++ [{ win := p.1 :: p.2 }] ∧ 5 ≤ x.left ∧ x.waiting = true ∧
      x.en = true ∧ x.stat = 0 ∧ x.skip = 0 ∧ (wSq).sq 0 ≠ x := by decide

/-- A context whose system buffers fit beside another's buffers, and one whose trace buffer is too large. -/
theorem witness_create :
    let s := wState (wBay 0 [])
    let x : Ctx := { evlg := 16, trlg := 16, rtkib := 4 }
    let before (x : Ctx) (n : Nat) : State := ((systemBufs x).take n).foldl (fun u e => u.createBuf 1 e.1 { size := e.2 }) s
    s.yard.bufs ≠ [] ∧ ((List.range 6).all fun n => ((systemBufs x)[n]?).all fun e =>
        e.1 == 0xFFFFFF || (before x n).framesFree { size := e.2 }) = true ∧
      ((systemBufs { x with trlg := 40 })[4]?.map fun e => (before x 4).framesFree { size := e.2 }) = some false := by decide

/-- The command block when idle and busy, with a grant's argument; offsets of each block of registers. -/
theorem witness_register_writes :
    let k : Cmd := { arg0 := 0x31 }
    k.busy = false ∧ k.arg0 = BitVec.ofNat 64 ((1 : BitVec 5).toNat * 32 + (1 : BitVec 1).toNat * 16 + (1 : BitVec 4).toNat) ∧
      (0x304 : Word).toNat % 256 = 4 ∧ (0x4000 : Word).getLsbD 14 = true ∧ (0x300 : Word).getLsbD 14 = false ∧
      (0x300 : Word).getLsbD 8 = true ∧ (0x300 : Word).getLsbD 9 = true ∧ (wState (wBay 0 [])).populated 0 = true := by decide

/-- A step whose action names a bay that no chiplet populates. -/
theorem witness_absent_bay :
    let s : State := { State.reset with agenda := [.event (.queueTake 0xFF)] }
    s.ok = true ∧ s.nextAction.1.bay? = some 0xFF ∧ s.populated 0xFF = false := by decide

/-- A slot with a lookaside entry, beside another slot's. -/
theorem witness_slot_lookaside :
    let y : Bay := { wBay 0 [(1, 0)] with look := [(2, { rights := 15 }), (2 ^ 24 + 2, {})] }
    y.caps.find? 0 ≠ none ∧ (∃ e ∈ y.look, e.1 / 2 ^ 24 = (y.gen.rd 1).toNat) ∧ (∃ e ∈ y.look, e.1 / 2 ^ 24 ≠ (y.gen.rd 1).toNat) ∧
      y.memoryDone = true := by decide

/-- A package with buffer 9 homed in package 5, to which no path is left. -/
def wFar (s : State) : State :=
  { s with remote := [5], yard := { s.yard with bufs := s.yard.bufs.put 9 { size := 4096, imp := some (5, 0, 9) } } }

/-- A dirty line whose home no path reaches, and a counter of that home, the last of a full counter cache. -/
theorem witness_lost_writes :
    let l : Line := { data := List.replicate 64 7, dirty := 2, mask := 1 }
    let y := { wBay 0 [] with counters := (List.range 63).map (fun k => (2, 8 * k, 1)) ++ [(9, 0, 1)] }
    let s : State := { wFar (wState y) with sheds := [(0, { cache := [(lineKey 0 9 64, l)] })] }
    s.ok = true ∧ s.unreachable (keyCtx (lineKey 0 9 64)) (keyBuf (lineKey 0 9 64)) = true ∧ s.unreachable 0 2 = false ∧
      s.home (keyCtx (lineKey 0 9 64)) (keyBuf (lineKey 0 9 64)) = .mem (memKey 5 0 9 0) ∧
      (y.counters.filter fun e => !(e.1 == 2 && e.2.1 == 65528)).length = 64 ∧ y.counters[63]? = some (9, 0, 1) := by decide

/-- A line of buffer 2 with a dirty byte, which IFLUSH writes back, and one of another buffer. -/
theorem witness_iflush :
    let l : Line := { data := List.replicate 64 7, dirty := 2, mask := 1 }
    let s : State := { wState (wBay 0 []) with sheds := [(3, { cache := [(lineKey 0 1 0, l), (lineKey 0 2 64, l)] })] }
    s.buf? 0 2 ≠ none ∧ keyOf 0 2 (lineKey 0 2 64) = true ∧ keyOf 0 2 (lineKey 0 1 0) = false ∧ l.dirty.getLsbD 1 = true ∧
      (s.shed 3).cache.find? (lineKey 0 2 64) = some l ∧ s.home 0 2 = .mem (memKey 0 0 2 0) ∧ s.unreachable 0 2 = false ∧
      s.isHost 0 2 = false := by decide

/-- A task whose successor list no path reaches, of a graph that queue 4 launched; a record whose code object none reaches. -/
theorem witness_list_out_of_reach :
    let r : TaskRecord := BitVec.ofNat 512 (2 ^ 13 + 9 * 2 ^ 104)
    let g : Graph := { ntask := 1, ctx := 0, den := false, dbuf := 2, doff := 0, sq := 4 }
    let s := wFar (wState (wBay 0 []))
    let u : State := { s with yard := { s.yard with graphs := [(0, g)], slots := [(0, { state := .ending, endf := true, record := r })] } }
    recList r = true ∧ recLbuf r = 9 ∧ u.unreachable 0 9 = true ∧ (u.slot 0).graph = 0 ∧ u.yard.graphs.find? 0 = some g ∧
      (u.sq 4).stat = 0 := by decide

/-- A bay whose debug stop outlasts its task, free, or taken by a restore; a matrix section with a weight row and a scale. -/
theorem witness_stop_stays :
    let y : Bay := { wBay 0 [] with debugStop := true, saving := true, mx := { w := { g1 := 1, hi := 1, data := [(0, 5)], scale := [(0, {}), (128, { bits := 7 })] } } }
    y.vacate.debugStop = true ∧ y.vacate.task = none ∧ y.vacate.canIssue = false ∧ (y.bind 1 {} 0).debugStop = true ∧
      (y.restored Bay.reset 1 0 []).debugStop = true ∧ y.pend.length ≤ 10 ∧ y.mx.w.hi < 2 ^ 32 ∧ y.mx.w.g1 = 1 ∧ y.mx.w.hi ≠ 0 := by decide

/-- A group that has entered the array with its scale, in a bay that another queue's fault has stopped; an array word about to
issue behind one with one group left, whose scales are read as it issues. -/
theorem witness_groups_entered :
    let p : MxPair := { fa := 1, fb := 0, so := 0, sat := 0, ga2 := 1, gb2 := 0, g := 1 }
    let g : MxJob := { instr := wMma 0 p, held := [([127], [])] }
    let f : Bay := { (wMx { acc0 := { ms1 := 0, ns1 := 0 }, arrays := [g] }).bay 0 with wf := { valid := true, qid := 1 } }
    let x : MxJob := { instr := wMma 1 }
    let s := wMx { arrays := [x] }
    let u := (s.judgeScales 0 (mxScales (wMma 1))).2.issueHead 0
    f.halted = true ∧ ¬ (f.wf.valid = true ∧ f.wf.qid = 0 ∧ f.wf.index = g.index) ∧ f.mx.arrays = [g] ∧
      g.held = ([127], []) :: [] ∧ (wState f).entered 0 g = true ∧ portSet (wMma 1) = none ∧ s.mayIssue 0 (wMma 1) = true ∧
      x.held = [] ∧ (match mulWord? x.instr with
      | none => false
      | some w => decide (w.p.g.toNat = x.upc + 1) && match u.scalesA 0 x w 0 128 with
        | .error _ => false
        | .ok (_, u1) => (u1.scalesB 0 x w 0 128).toOption.isSome) = true := by decide

/-- Copies of every kind whose source has been read, with nothing of theirs on its way, and one whose merge is still to go. -/
theorem witness_sources_read :
    let read (i : Instr) (m : Bool) : State :=
      let s := wCpJob i
      { s with bays := s.bays.map fun e => (e.1, e.2.modCp 0 fun c =>
        { c with jobs := c.jobs.map fun j => { j with upc := 1, srcDone := true, merged := m } }) }
    ∀ e ∈ [(4, Instr.cpOutCin 1 20 2), (6, .cpT2t 0 20 2 1 0), (8, .cpScat 0 1 20 2 4), (9, .cpRed 0 1 20 2 0 0 1 5), (10, .cpPeer 0 1 20 2 1 21)],
      ∀ m ∈ [true, false],
        let s := read e.2 m
        let y := s.bay 0
        s.populated 0 = true ∧ s.ok = true ∧ s.yard.dbg.wp = [] ∧ y.saving = false ∧ y.wf.valid = false ∧
          (match (y.cp 0).jobs, cpWord? e.2 with
          | [j], some w => w.op == e.1 && w.q == 0 && j.srcDone && j.merged == m && decide ((y.tile w.shape).rows ≤ j.upc) &&
              (s.lostFrom (j.sent 0 0)).isNone && !s.sideRemote 0 j.desc && !s.onWay (j.sent 0 0) &&
              !s.unreachable 0 (Desc.buf j.desc2) && s.home 0 (Desc.buf j.desc2) == .mem (memKey 0 0 1 0)
          | _, _ => false) = true := by decide

/-- kx.ild of an index tile of one row and one entry, and of one whose column lies past NC. -/
theorem witness_index_load :
    let j (nc : Nat) : KxJob := { instr := .kxIld 1 5, head := { m := 1, nc := nc, nnz := 1 } }
    let s := wKx 0x80 { job := some (j 1) }
    let y := s.bay 0x80
    s.populated 0x80 = true ∧ y.kx.job = some (j 1) ∧ y.kxHeld (j 1) = false ∧ s.rowBreak 0x80 (y.tile 1) (j 1).head 0 = none ∧
      s.rowBreak 0x80 (y.tile 1) (j 0).head 0 = some 4 ∧ 1 + 3 + 1 ≤ (y.tile 1).size ∧ 1 + 3 + 1 ≤ (y.tile 5).size ∧
      (y.tile 1).fmt = 4 ∧ (y.tile 5).fmt = 4 ∧ s.rowEntries 0x80 (y.tile 1) (j 1).head 0 = [0] ∧
      apart (y.tile 5) (y.tile 1) := by unfold apart; decide

/-- Two copies of cin while a fault of vec is held: one that runs on, and one that stands at its next row. -/
def wFlush (d : Desc) : State :=
  let j : CpJob := { instr := .cpIn 1 20 1, desc := d, origin := List.replicate 8 0 }
  let s := wCp { jobs := [j] }
  { s with bays := s.bays.map fun e => (e.1, { e.2 with
      gen := { e.2.gen with mode := 1, x := [(1, 4)] }, wf := { valid := true, qid := 1 } }) }

/-- R310, R382: BAY.FLUSH leaves the copy that runs to its end, and discards the one that stands at a fault. -/
theorem test_flush_keeps_running_copies :
    let left (d : Desc) : Option Nat :=
      match exec (.bayFlush 1) (wFlush d) with
      | .next t => some (t.bay 0).cpIn.jobs.length
      | _ => none
    left wDesc = some 1 ∧ left (wDesc.set 0 65536) = some 0 := by decide

/-- R389: the matrix section holds configuration, sets, weight-buffer state and stopped words, 132,344 bytes in all. -/
theorem test_matrix_section :
    (mxCells.map Cell.bytes).sum = 132344 ∧ (mxCells.map Cell.bytes).take 3 = [8, 16, 512] ∧
      (mxCells.map Cell.bytes).drop 259 = [16, 608, 608] := by decide

/-- R244, R378: mx.rq names TR before TM and TS whatever RSEN says. -/
theorem test_requantise_operands :
    (mxTiles (.mxRq { td := 1, tr := 2, tm := 3, ts := 4, rsen := 0, osgn := 0, rnd := 0, z := 0, oz := 0, set := 0, zaft := 0 })) =
      [1, 2, 3, 4] := by decide

/-- A write of bbcbase with no count cached, with one whose home is in reach and with one whose home no path reaches. -/
theorem witness_counter_homes :
    let on (cs : List (BufId × Nat × W32)) : State := wFar (wState { wBay 1 [(10, 8)] with counters := cs })
    (on []).csrRead 0 0x5C8 = some 0 ∧ csrNewValue .rw 0 8 10 = some 8 ∧ (on [(2, 64, 5)]).unreachable 0 2 = false ∧
      (on [(2, 64, 5)]).home 0 2 = .mem (memKey 0 0 2 0) ∧ (on [(9, 0, 5)]).unreachable 0 9 = true := by decide

/-- R139, R193, R195: a count is added to what the task stored at its counter before, and its later load finds the sum. -/
theorem test_count_after_store :
    let l : Line := { data := 7 :: List.replicate 63 0, dirty := 1, mask := 1 }
    let y := { wBay 1 [(10, 8)] with counters := [(2, 64, 5)] }
    let s : State := { wState y with sheds := [(0, { cache := [(lineKey 0 2 64, l)] })] }
    leads (exec (.csrAccess .rw 0 10 0x5C8) s) (fun t =>
      t.homeBytes 0 2 64 2 == [12, 0] && (t.load 0 1 0 2 64 2).1 == [12, 0] && (t.bay 0).counters.isEmpty) = true := by decide

/-- Keys of every type in range, NaN patterns of both signs among them. -/
theorem witness_key_orders :
    0xFFFFFFFF < 2 ^ 32 ∧ 0xFFFFFFFFFFFFFFFF < 2 ^ 64 ∧ (3 : Nat) < 4 ∧ totalRank 0x7FC00000 = 2 ∧ totalRank 0xFFC00000 = -2 ∧
      totalRank 0xFF800000 = -1 ∧ totalRank 0x80000000 = 0 := by decide

/-- R229: −NaN, −∞, −1, −0, +0, 1, +∞ and +NaN stand in this order. -/
theorem test_total_order :
    ([0xFFC00000, 0xFF800000, 0xBF800000, 0x80000000, 0, 0x3F800000, 0x7F800000, 0x7FC00000].map fkey).Pairwise (· < ·) := by
  decide

/-- Formats and elements of every kind: zero, subnormal, normal, infinity, NaN, E4M3's last numbers; integers at their bounds;
additions and products of each kind of operand; a compare of zeros. -/
theorem witness_float_results :
    fmtIsFloat 12 = true ∧ fmtFA 13 = true ∧ fmtST 14 = true ∧ fmtST 6 = true ∧ 0xFFFFFFFF < 2 ^ fmtBits 12 ∧
      decodeVal 12 0x80000000 = .num true 0 (-149) ∧ decodeVal 12 1 = .num false 1 (-149) ∧ decodeVal 12 0x3F800000 = .num false (2 ^ 23) (-23) ∧
      decodeVal 12 0xFF800000 = .inf true ∧ decodeVal 12 0x7F800001 = .nan ∧ decodeVal 8 0x7E = .num false 14 5 ∧ decodeVal 8 0xFF = .nan ∧
      decodeVal 0 0x80 = .num true 128 0 ∧ decodeVal 7 0 = .num true 127 0 ∧
      (decodeVal 12 0x7FC00000).isNaN = true ∧ (decodeVal 12 0).isZero = true ∧ (decodeVal 12 0x7F7FFFFF).finite = true := by decide

/-- R86, R83, R291: 1 + 2^−24 is halfway and goes to 1, with NX; the largest number doubled is +∞ with OF and NX, or the
largest under RTZ; +∞ − +∞ is the canonical NaN with NV; −0 is below +0 in vx.min and equal to it in a compare. -/
theorem test_float_results :
    let w (op r : Nat) : VxWord := { vxBin op { s := 0, d := 0, a := 0, b := 0, t := 12, r := 0, m := 0 } with r := r }
    vxElement (w 0 0) 0 0x3F800000 0x33800000 0 = ⟨0x3F800000, 8, 0⟩ ∧ vxElement (w 0 3) 0 0x3F800000 0x33800000 0 = ⟨0x3F800001, 8, 0⟩ ∧
      vxElement (w 0 0) 0 0x7F7FFFFF 0x7F7FFFFF 0 = ⟨0x7F800000, 10, 0⟩ ∧ vxElement (w 0 1) 0 0x7F7FFFFF 0x7F7FFFFF 0 = ⟨0x7F7FFFFF, 10, 0⟩ ∧
      vxElement (w 1 0) 0 0x7F800000 0x7F800000 0 = ⟨0x7FC00000, 1, 0⟩ ∧ vxElement (w 4 0) 0 0 0x80000000 0 = ⟨0x80000000, 0, 0⟩ ∧
      vxElement (w 0x10 0) 0 0 0x80000000 0 = ⟨1, 0, 0⟩ ∧ vxElement (w 1 2) 0 0x3F800000 0x3F800000 0 = ⟨0x80000000, 0, 0⟩ := by decide

/-- R86: the integer 300 converted to I8 is 127 with SAT, NX and one count. -/
theorem test_convert_saturates :
    vxElement { vxBin 0x18 { s := 0, d := 0, a := 0, b := 0, t := 0, r := 0, m := 0 } with src := 2 } 0 300 0 0 = ⟨127, 40, 1⟩ := by
  decide

/-- A drain with scales that is not at its last row; mx.ldw at a row that loads block scales, in the middle of a block and at
its last row. -/
theorem witness_rows_by_geometry :
    let vec : Desc := (wDesc.set 2 0x1C).set 3 4
    let scaled : MxJob := { instr := .mxDrain 4 0 1 0 0 0 6, descA := vec, descB := vec }
    let s := wMx { acc0 := { ms1 := 1, ns1 := 0 }, port := some scaled }
    let ldw (upc : Nat) : MxJob := { instr := .mxLdw 1 0 1 1 0 3, descA := wDesc.set 2 0x21, descB := wDesc, upc := upc }
    let u0 (upc : Nat) := wMx { w := { g1 := 1, fmt := 1 }, arrays := [{ instr := wMma 1 }, ldw upc] }
    let u (upc : Nat) : State := { u0 upc with bays := (u0 upc).bays.map fun e =>
      (e.1, { e.2 with tiles := e.2.tiles ++ [(3, { alloc := 1, state := 2, fmt := 1, rows1 := 65, cols1 := 1 })] }) }
    let y := (u 0).bay 0
    let at' (n : Nat) : List (List Int) := (List.range 2).map fun (c : Nat) => [(n : Int), (c : Int)]
    (s.bay 0).mx.port = some scaled ∧ scaled.upc < ((s.bay 0).mx.set 0).ms1.toNat ∧ ((s.bay 0).mx.set 0).ms1.toNat < ((s.bay 0).tile 6).rows ∧
      (match s.readScales 0 0 scaled.descA [[(scaled.upc : Int)]] with
      | .ok ([_], s1) => (s1.readScales 0 0 scaled.descB [[0]]).toOption.isSome
      | _ => false) = true ∧
      (u 0).populated 0 = true ∧ y.halted = false ∧ y.mx.arrays = [{ instr := wMma 1 }] ++ [ldw 0] ∧ mulWord? (wMma 1) ≠ none ∧
      y.mx.w.g1 = 1 ∧ (y.tile 3).rows = 66 ∧ (y.tile 3).cols = 2 ∧ 64 % 64 = 0 ∧ 3 % 64 ≠ 0 ∧ (ldw 3).again = false ∧
      (ldw 65).upc + 1 = (y.tile 3).rows ∧
      (match (u 64).readScales 0 0 (ldw 64).descA (at' 1) with
      | .ok (_, s1) => (s1.readScales 0 0 (ldw 64).descB (at' 0)).toOption.isSome
      | .error _ => false) = true ∧ (decodeVal 12 0x7FC00000).isNaN = true ∧ (decodeVal 12 0x80000000).isZero = true ∧
      (decodeVal 12 0xFF800000).finite = false := by decide

/-- R93: a block scale of 1.0 × 255 / 255 is 1.0, and code 0 under −1.0 gives −0. -/
theorem test_block_scale :
    blockScale 0x3F800000 255 = { bits := 0x3F800000, flags := 0 } ∧ blockScale 0xBF800000 0 = { bits := 0x80000000, flags := 0 } := by
  decide

/-- A flush of cin's copies while a fault of vec is held, one that stands stopped and one that runs on, with nothing else of the
bay executing; and a copy that has read its source. -/
theorem witness_flushed_copies :
    let s := wFlush wDesc
    let u := wFlush (wDesc.set 0 65536)
    let y := s.bay 0
    let j : CpJob := { instr := .cpOutCin 1 20 2, srcDone := true }
    y.gen.mode ≠ 0 ∧ y.wf.valid = true ∧ (y.gen.rd 1).toNat < 2 ^ 5 ∧ ((y.gen.rd 1).extractLsb' 0 5 : BitVec 5).getLsbD (2 + (0 : BitVec 1).toNat) = true ∧
      ((y.gen.rd 1).extractLsb' 0 5 : BitVec 5).getLsbD (3 - (0 : BitVec 1).toNat) = false ∧ (y.cp (1 - 0)).jobs = [] ∧ (y.cp 0).jobs.length ≤ 4 ∧
      y.mx.arrays = [] ∧ y.vx.stopped = none ∧ y.vx.pend = [] ∧ y.kx.job = none ∧ s.onWay (fun x => x.bay == 0) = false ∧
      s.cpStopped 0 0 0 = false ∧ u.cpStopped 0 0 0 = true ∧ (cpWord? (.cpIn 1 20 1)).map (fun w => (w.into, w.source)) = some (some 1, none) ∧
      (cpWord? j.instr).map (fun w => (w.into, w.source)) = some (none, some 2) := by decide

/-- R150, R382: the tile that a discarded copy was filling is empty. -/
theorem test_flush_empties_tile :
    let fill (d : Desc) : State := { wFlush d with bays := (wFlush d).bays.map fun e =>
      (e.1, { e.2 with tiles := e.2.tiles.map fun t => (t.1, { t.2 with state := 1 }) }) }
    let state (d : Desc) : Option (BitVec 2) :=
      match exec (.bayFlush 1) (fill d) with
      | .next t => some ((t.bay 0).tile 1).state
      | _ => none
    state (wDesc.set 0 65536) = some 0 ∧ state wDesc = some 1 := by decide

/-- A counting unit that has taken up two in the cycle, or four of one; a decrement of the next cycle; a bay below one whose
arrival was taken up; a class that has dispatched in this cycle. -/
theorem witness_counting_unit :
    let d : Decrement := { src := 0, bay := 0, ctx := 0, dec := 1, target := 1, first := true, time := 4 }
    let s : State := { wState (wBay 0 []) with now := 4, yard := { (wState (wBay 0 [])).yard with
      decs := [d], unit := { taken := 2, applied := 4, floor := 3 }, dispatched := 1 } }
    s.yard.decs[0]? = some d ∧ ¬ s.yard.unit.taken < 2 ∧ ¬ s.yard.unit.applied < 4 ∧ { d with time := 5 }.time > s.now ∧
      (0 : BayNo).toNat < s.yard.unit.floor ∧ s.yard.dispatched.getLsbD 0 = true ∧ s.yard.dispatched.getLsbD 1 = false := by decide

/-- R354: the counting unit takes up two TASK.DECs in a cycle, and the third when time has passed. -/
theorem test_counting_unit :
    let d (t : TaskId) : Decrement := { src := 0, bay := 0, ctx := 0, dec := 1, target := t, first := true, time := 4 }
    let x (k : Nat) : Nat × TaskSlot := (k, { state := .waiting, cntr := 2 })
    let s : State := { wState (wBay 0 []) with now := 4, yard := { (wState (wBay 0 [])).yard with
      decs := [d 1, d 2, d 3], slots := [x 1, x 2, x 3] } }
    let again (p : State → Bool) (t : State) : Bool := leads (exec .applyDecrement t) p
    again (again (again fun t => t.yard.decs == [d 3] && (t.slot 1).cntr == 1 && (t.slot 2).cntr == 1 && (t.slot 3).cntr == 2)) s =
      true := by decide

/-- A LAUNCH that waits with the image that it has read, in a context without room and in one with room. -/
theorem witness_launch_waits :
    let h : BitVec 512 := BitVec.ofNat 512 (0x004000014947575A + 2 ^ 64)
    let s (q : BitVec 17) : State := { wSpawn q [] with yard := { (wSpawn q []).yard with
      sqs := [(0, { en := true, tail := 40, waiting := true, image := some (h, [0]) })] } }
    (s 9).ok = true ∧ ((s 9).sq 0).image = some (h, [0]) ∧ (h.extractLsb' 64 32).toNat = 1 ∧ ([0] : List TaskRecord).length = 1 ∧
      (s 9).resident 0 + 1 ≤ ((s 9).ctx 0).qslot.toNat ∧ ¬ (s 0).resident 0 + 1 ≤ ((s 0).ctx 0).qslot.toNat ∧
      ((s 9).judgeAll 0 1 [0]).toOption.isSome = true ∧ (s 9).yard.graphs = [] := by decide

/-- R372: a LAUNCH that waits does not read its image again: what stands there later does not stop its queue. -/
theorem test_launch_keeps_image :
    let h : BitVec 512 := BitVec.ofNat 512 (0x004000014947575A + 2 ^ 64)
    let s : State := { wSpawn 0 [] with yard := { (wSpawn 0 []).yard with sqs := [(0, { en := true, tail := 40, image := some (h, [0]) })] } }
    let i : Instr := .launch 0 { buf := 2, off := 0 } 0
    leads (exec i s) (fun t => (t.sq 0).stat == 0 && (t.sq 0).waiting) = true ∧
      leads (exec i { s with yard := { s.yard with sqs := [(0, { en := true, tail := 40 })] } }) (fun t => (t.sq 0).stat == 3) = true := by
  decide

/-- R376: a packet breakpoint on everything matches a NOP, and no LAUNCH whose image is invalid. -/
theorem test_break_after_records :
    let s := wSpawn 9 []
    let u : State := { s with yard := { s.yard with dbg := { pbp := [0x80000000000000000000000000000000] } } }
    u.breakOf 0 0 (.nop 0) = some 0 ∧ u.breakOf 0 0 (.launch 0 { buf := 2, off := 0 } 0) = none := by decide

end Sys2Proof.Machine
end

section
/-! SUPPORT. The fairlead's operations: what a queue update, a joining of lists and an acceptance leave, that `accepts` fixes
all of a bay but its generator, its hang count and its word count, and when a word, or two in one cycle, has room. After
them EMIT, EMIT2 and EMITNB. -/
namespace Sys2Proof.Machine

/-! ### Queues by number -/

/-- A queue read after an update of a queue. -/
theorem Bay.queue_modQueue (y : Bay) {p q : Nat} (hp : p < 5) (hq : q < 5) (f : Queue → Queue) :
    (y.modQueue p f).queue q = if q = p then f (y.queue q) else y.queue q := by
  interval_cases p <;> interval_cases q <;> rfl

/-- An update of a queue leaves everything but the queues. -/
theorem Bay.modQueue_eq (y : Bay) (q : Nat) (f : Queue → Queue) :
    y.modQueue q f = { y with mtx := (y.modQueue q f).mtx, vec := (y.modQueue q f).vec, cin := (y.modQueue q f).cin,
                              cout := (y.modQueue q f).cout, cls := (y.modQueue q f).cls } := by
  unfold Bay.modQueue Bay.setQueue; split <;> rfl

/-- Joining lists leaves everything but the queues. -/
theorem Bay.join_eq (y : Bay) (e : Entry) (qs : List Nat) :
    y.join e qs = { y with mtx := (y.join e qs).mtx, vec := (y.join e qs).vec, cin := (y.join e qs).cin,
                           cout := (y.join e qs).cout, cls := (y.join e qs).cls } := by
  induction qs generalizing y with
  | nil => rfl
  | cons q qs ih => rw [Bay.join, ih, Bay.modQueue_eq]

/-- An entry that joins distinct lists stands once at the end of each. -/
theorem joins_join (y : Bay) (e : Entry) {qs : List Nat} (hlt : ∀ q ∈ qs, q < 5) (hnd : qs.Nodup) :
    joins qs e y (y.join e qs) := by
  induction qs generalizing y with
  | nil => exact fun q _ => (if_neg List.not_mem_nil).symm
  | cons p ps ih =>
    intro q hq
    obtain ⟨hp, hps⟩ := List.forall_mem_cons.mp hlt
    obtain ⟨hpn, hnd⟩ := List.nodup_cons.mp hnd
    rw [Bay.join, ih _ hps hnd q hq, Bay.queue_modQueue y hp hq]
    by_cases h : q = p
    · simp [h, hpn]
    · simp [h]

/-! ### The queues that a word names (R50, R51) -/

theorem wordQueues_prefix {w : W32} (h : wordE w = 6) : wordQueues w = [] := by simp [wordQueues, h]

theorem lt_of_mem_wordQueues {w : W32} {q : Nat} (h : q ∈ wordQueues w) : q < 5 := by
  unfold wordQueues at h
  split at h
  · have hq := (List.mem_filter.mp h).1
    simp only [List.mem_cons, List.not_mem_nil, or_false] at hq
    omega
  · split at h
    · rwa [List.mem_singleton.mp h]
    · exact absurd h List.not_mem_nil

theorem nodup_wordQueues (w : W32) : (wordQueues w).Nodup := by
  unfold wordQueues
  split
  · exact List.Nodup.filter _ (by decide)
  · split <;> simp

/-! ### Acceptance (R54, R116 to R118) -/

theorem Bay.accept_prefix (y : Bay) {w : W32} (h : wordE w = 6) (off : W32) :
    y.accept w off = { y with pend := y.pend ++ [((w.extractLsb' 26 3).toNat, w)] } := if_pos h

/-- The entry that a word other than a prefix becomes. -/
def Bay.entryOf (y : Bay) (w off : W32) : Entry :=
  { w := w, pfx := y.pendOf (wordE w), eseq := y.eseq, off := off, seed := y.gen.srseed, step := y.gen.srstep,
    seqNo := y.seqNo, fork := y.forks }

/-- A bay that has numbered a word and given it its prefixes, before the word joins its lists. -/
def Bay.numbered (y : Bay) (w : W32) : Bay :=
  { y with pend := y.pend.filter (fun p => p.1 != wordE w), eseq := y.eseq + 1, seqNo := y.seqNo + 1 }

theorem Bay.accept_word (y : Bay) {w : W32} (h : wordE w ≠ 6) (off : W32) :
    y.accept w off = (y.numbered w).join (y.entryOf w off) (wordQueues w) := if_neg h

@[simp] theorem Bay.accept_gen (y : Bay) (w off : W32) : (y.accept w off).gen = y.gen := by
  by_cases h : wordE w = 6
  · rw [Bay.accept_prefix y h]
  · rw [Bay.accept_word y h, Bay.join_eq]; rfl

/-- The word count advances with ESEQ. -/
theorem Bay.accept_seqNo (y : Bay) (w off : W32) :
    (y.accept w off).seqNo = y.seqNo + ((y.accept w off).eseq - y.eseq).toNat := by
  by_cases h : wordE w = 6
  · simp [Bay.accept_prefix y h]
  · rw [Bay.accept_word y h, Bay.join_eq]
    simp [Bay.numbered]

/-- The model's acceptance is the one that the statements describe. -/
theorem accepts_accept (y : Bay) (w off : W32) : accepts w off y.gen.srseed y.gen.srstep y (y.accept w off) := by
  by_cases h : wordE w = 6
  · rw [Bay.accept_prefix y h]
    exact ⟨rfl, (if_pos h).symm ▸ ⟨rfl, rfl, fun _ _ => rfl⟩⟩
  · have hj : joins (wordQueues w) (y.entryOf w off) (y.numbered w) _ :=
      joins_join _ _ (fun _ => lt_of_mem_wordQueues) (nodup_wordQueues w)
    have he := Bay.join_eq (y.numbered w) (y.entryOf w off) (wordQueues w)
    rw [← Bay.accept_word y h off] at hj he
    refine ⟨?_, (if_neg h).symm ▸ ⟨?_, ?_, hj⟩⟩
    · rw [onlyFairlead, he]; rfl
    · rw [he]; rfl
    · rw [he]; rfl

/-- An acceptance says nothing of what the generator and the hang count become. -/
theorem accepts.onlyGen_right {w off : W32} {a b : Word} {y z u : Bay} (h : accepts w off a b y z) (hu : onlyGen z u) :
    accepts w off a b y u := by
  obtain ⟨hf, hq⟩ := h
  rw [hu]
  refine ⟨?_, hq⟩
  rw [onlyFairlead, hf]

/-- Nor does it read them. -/
theorem accepts.onlyGen_left {w off : W32} {a b : Word} {y z u : Bay} (h : accepts w off a b y u) (hy : onlyGen y z) :
    accepts w off a b z u := by
  rw [hy]; exact h

/-- Whatever the word, an acceptance is a joining of the lists that the word names; a prefix names none. -/
theorem accepts.exists_joins {w off : W32} {a b : Word} {y z : Bay} (h : accepts w off a b y z) :
    ∃ e, joins (wordQueues w) e y z := by
  obtain ⟨-, h⟩ := h
  split at h
  next he =>
    obtain ⟨-, -, hz⟩ := h
    exact ⟨default, fun q hq => by rw [hz q hq, wordQueues_prefix he, if_neg List.not_mem_nil]⟩
  next =>
    obtain ⟨-, -, hz⟩ := h
    exact ⟨_, hz⟩

/-- A queue that an accepted word does not name stays. -/
theorem accepts.queue_eq {w off : W32} {a b : Word} {y z : Bay} (h : accepts w off a b y z) {q : Nat} (hq : q < 5)
    (hn : q ∉ wordQueues w) : z.queue q = y.queue q := by
  obtain ⟨e, hz⟩ := h.exists_joins
  rw [hz q hq, if_neg hn]

/-- Bays with the same prefixes, ESEQ and queues given agree in them. -/
theorem fairlead_agree {m n : Bay} {p : List (Nat × W32)} {k : W32} {f : Nat → Queue}
    (hm : m.pend = p ∧ m.eseq = k ∧ ∀ q, q < 5 → m.queue q = f q)
    (hn : n.pend = p ∧ n.eseq = k ∧ ∀ q, q < 5 → n.queue q = f q) :
    n.pend = m.pend ∧ n.eseq = m.eseq ∧ ∀ q, q < 5 → n.queue q = m.queue q := by
  obtain ⟨rfl, rfl, hmq⟩ := hm
  obtain ⟨hp, he, hnq⟩ := hn
  exact ⟨hp, he, fun q hq => (hnq q hq).trans (hmq q hq).symm⟩

/-- What an acceptance leaves of the prefixes, the numbering and the queues is the same in every bay that it can leave. -/
theorem accepts_unique {w off : W32} {a b : Word} {y m n : Bay} (hm : accepts w off a b y m) (hn : accepts w off a b y n) :
    n.pend = m.pend ∧ n.eseq = m.eseq ∧ ∀ q, q < 5 → n.queue q = m.queue q := by
  obtain ⟨-, hm⟩ := hm
  obtain ⟨-, hn⟩ := hn
  split at hm
  next h => rw [if_pos h] at hn; exact fairlead_agree hm hn
  next h => rw [if_neg h] at hn; exact fairlead_agree hm hn

/-- So two such bays differ in the generator, the hang count and the word count at most. -/
theorem accepts.onlyGen_unique {w off : W32} {a b : Word} {y m n : Bay} (hm : accepts w off a b y m)
    (hn : accepts w off a b y n) : onlyGen n { m with seqNo := n.seqNo } := by
  obtain ⟨hp, he, hq⟩ := accepts_unique hm hn
  have h0 : n.mtx = m.mtx := hq 0 (by decide)
  have h1 : n.vec = m.vec := hq 1 (by decide)
  have h2 : n.cin = m.cin := hq 2 (by decide)
  have h3 : n.cout = m.cout := hq 3 (by decide)
  have h4 : n.cls = m.cls := hq 4 (by decide)
  rw [onlyGen, hn.1, hp, he, h0, h1, h2, h3, h4, hm.1]

/-- The checks read the pending prefixes alone. -/
theorem Bay.checkWord_congr {y z : Bay} (h : y.pend = z.pend) (kind : Nat) (w : W32) :
    y.checkWord kind w = z.checkWord kind w := by
  have hp : y.pending = z.pending := funext fun e => by rw [Bay.pending, Bay.pending, h]
  rw [Bay.checkWord, Bay.checkWord, hp]

theorem accepts.checkWord_eq {w off : W32} {a b : Word} {y m n : Bay} (hm : accepts w off a b y m)
    (hn : accepts w off a b y n) (kind : Nat) (v : W32) : n.checkWord kind v = m.checkWord kind v :=
  Bay.checkWord_congr (accepts_unique hm hn).1 kind v

/-! ### Room (R115, R120) -/

theorem Bay.room_iff (y : Bay) (w : W32) : y.room w = true ↔ hasRoom y [] w := by
  simp only [Bay.room, List.all_eq_true, decide_eq_true_eq]
  exact Iff.rfl

/-- An acceptance makes the list of each queue that the word names one longer. -/
theorem Bay.length_wait_accept (y : Bay) (w off : W32) {q : Nat} (hq : q < 5) :
    ((y.accept w off).queue q).wait.length = (y.queue q).wait.length + if q ∈ wordQueues w then 1 else 0 := by
  obtain ⟨e, hz⟩ := (accepts_accept y w off).exists_joins
  rw [hz q hq]
  split <;> simp

/-- Room after an acceptance is room beside the word accepted. -/
theorem Bay.room_accept_iff (y : Bay) (w0 w1 off : W32) :
    (y.accept w0 off).room w1 = true ↔ hasRoom y (wordQueues w0) w1 := by
  simp only [Bay.room, List.all_eq_true, decide_eq_true_eq]
  exact forall₂_congr fun q hq => by rw [Bay.length_wait_accept y w0 off (lt_of_mem_wordQueues hq)]; rfl

/-! ### Instructions at the fairlead (R115, R120, R365) -/

theorem State.ended_iff (s : State) : s.ended s.cur = true ↔ Sys2Proof.Machine.ended s := by
  unfold State.ended Sys2Proof.Machine.ended
  split
  next t ht => simp [ht]
  next ht => simp [ht]

/-- An operation on the current bay is what it makes of that bay. -/
theorem onCur_congr {s : State} {f g : Bay → Bay} (h : f (s.bay s.cur) = g (s.bay s.cur)) : onCur s f = onCur s g := by
  simp only [onCur, State.modBay, h]

/-- An instruction that appends to queues, before the task has ended. -/
theorem exec_onEmit {i : Instr} {s : State} {f g : Bay → Bay} (hx : exec i s = onEmit s i f) (he : ¬ ended s)
    (h : f (s.bay s.cur) = g (s.bay s.cur)) : exec i s = onCur s g := by
  rw [← State.ended_iff] at he
  rw [hx]
  exact onCur_congr ((if_neg he).trans h)

/-- Once ENDF is 1 it is illegal (R365). -/
theorem completes_ended {i : Instr} {s : State} {f : Bay → Bay} (hx : exec i s = onEmit s i f) (he : ended s) :
    Completes i s (traps 2 (((encodeGen i).getD 0).setWidth 64) s) := by
  rw [← State.ended_iff] at he
  refine completes_fault (hx.trans (onCur_congr ?_))
  exact if_pos he

/-- Waiting keeps the cycles waited so far. -/
theorem Bay.poll_eq (b : Bay) (i : Instr) : b.poll i = b.modGen fun g => { g with wait := some (.poll i g.waited) } := rfl

/-- An instruction whose meaning is to wait completes with its generator waiting (R115). -/
theorem completes_poll {i : Instr} {s : State} (h : exec i s = onCur s fun b => b.poll i) :
    Completes i s (waits i s) := by
  refine ⟨_, h, onlyBay_modBay .., ?_, ?_⟩
  · rw [State.bay_modBay_same, Bay.poll_eq]; rfl
  · rw [State.bay_modBay_same, Bay.poll_eq]; rfl

/-- What EMIT leaves that accepts a word and retires. -/
theorem accepts_retire (y : Bay) (w off : W32) :
    accepts w off y.gen.srseed y.gen.srstep y (y.accept w off).retire ∧
      genRetires [] (y.gen.pc + 4) y.gen (y.accept w off).retire.gen := by
  refine ⟨(accepts_accept y w off).onlyGen_right (onlyGen_retireTo ..), ?_⟩
  simpa [Bay.retire] using genRetires_retireTo (y.accept w off) ((y.accept w off).gen.pc + 4)

/-- What EMITNB leaves that accepts a word and retires with an answer. -/
theorem accepts_retireWith (y : Bay) (w off : W32) (rd : Reg) (v : Word) :
    accepts w off y.gen.srseed y.gen.srstep y ((y.accept w off).retireWith rd v) ∧
      genRetires [rd] (y.gen.pc + 4) y.gen ((y.accept w off).retireWith rd v).gen := by
  refine ⟨(accepts_accept y w off).onlyGen_right (onlyGen_retireWith ..), ?_⟩
  simpa using (retireWith_gen (y.accept w off) rd v).1

/-! ### EMIT, EMIT2 and EMITNB (R120) -/

theorem low_word (v : Word) : v.setWidth 32 = v.extractLsb' 0 32 := by ext; simp

/-- stval of an EMIT2 whose second word fails: bit 32 marks the word (R143). -/
theorem mark_second (w : W32) : zext w + 0x100000000 = 1#32 ++ w := by
  have h := w.isLt
  have h1 : (0x100000000 : Word).toNat = 2 ^ 32 := rfl
  apply BitVec.eq_of_toNat_eq
  rw [BitVec.toNat_append, ← Nat.shiftLeft_add_eq_or_of_lt h, zext, BitVec.toNat_add, BitVec.toNat_setWidth, h1]
  simp only [BitVec.toNat_ofNat]
  omega

theorem Gen.off_eq (g : Gen) : g.off = g.pc.extractLsb' 0 32 := low_word g.pc

section
variable {rs1 rd : Reg} {s : State} {w0 w1 off : W32} (he : ¬ ended s)
  (hw0 : ((s.bay s.cur).gen.rd rs1).extractLsb' 0 32 = w0) (hw1 : ((s.bay s.cur).gen.rd rs1).extractLsb' 32 32 = w1)
  (hoff : (s.bay s.cur).gen.pc.extractLsb' 0 32 = off)
include he hw0

/-- A word that fails a check (R53) is the instruction's exception, before any room is looked for (R122). -/
theorem exec_emits_fault {c : Nat} (hc : (s.bay s.cur).checkWord (bayKind s.cur) w0 = some c) :
    ∀ i ∈ [Instr.emit rs1, .emit2 rs1, .emitnb rd rs1], exec i s = onCur s fun b => b.fault c (w0.setWidth 64) := by
  intro i hi
  simp only [List.mem_cons, List.not_mem_nil, or_false] at hi
  rcases hi with rfl | rfl | rfl
  · exact exec_onEmit rfl he (by simp [low_word, hw0, hc, zext])
  · exact exec_onEmit rfl he (by simp [hw0, hc, zext])
  · exact exec_onEmit rfl he (by simp [low_word, hw0, hc, zext])

section
variable (hc : (s.bay s.cur).checkWord (bayKind s.cur) w0 = none)
include hc

theorem exec_emit_room (hr : hasRoom (s.bay s.cur) [] w0) :
    exec (.emit rs1) s = onCur s fun b => (b.accept w0 b.gen.off).retire :=
  exec_onEmit rfl he (by simp [low_word, hw0, hc, (Bay.room_iff ..).mpr hr])

theorem exec_emit_full (hr : ¬ hasRoom (s.bay s.cur) [] w0) :
    exec (.emit rs1) s = onCur s fun b => b.poll (.emit rs1) :=
  exec_onEmit rfl he (by simp [low_word, hw0, hc, mt (Bay.room_iff ..).mp hr])

theorem exec_emitnb_room (hr : hasRoom (s.bay s.cur) [] w0) :
    exec (.emitnb rd rs1) s = onCur s fun b => (b.accept w0 b.gen.off).retireWith rd 1 :=
  exec_onEmit rfl he (by simp [low_word, hw0, hc, (Bay.room_iff ..).mpr hr])

theorem exec_emitnb_full (hr : ¬ hasRoom (s.bay s.cur) [] w0) :
    exec (.emitnb rd rs1) s = onCur s fun b => b.retireWith rd 0 :=
  exec_onEmit rfl he (by simp [low_word, hw0, hc, mt (Bay.room_iff ..).mp hr])

include hw1 hoff

theorem exec_emit2_fault_second {c : Nat} (hc1 : ((s.bay s.cur).accept w0 off).checkWord (bayKind s.cur) w1 = some c) :
    exec (.emit2 rs1) s = onCur s fun b => b.fault c (1#32 ++ w1) :=
  exec_onEmit rfl he (by simp [hw0, hw1, Gen.off_eq, hoff, hc, hc1, ← mark_second])

variable (hc1 : ((s.bay s.cur).accept w0 off).checkWord (bayKind s.cur) w1 = none)
include hc1

theorem exec_emit2_room (hr : hasRoom (s.bay s.cur) [] w0) (hr1 : hasRoom (s.bay s.cur) (wordQueues w0) w1) :
    exec (.emit2 rs1) s = onCur s fun b => ((b.accept w0 off).accept w1 off).retire :=
  exec_onEmit rfl he (by
    simp [hw0, hw1, Gen.off_eq, hoff, hc, hc1, (Bay.room_iff ..).mpr hr, (Bay.room_accept_iff ..).mpr hr1])

theorem exec_emit2_full (hr : ¬ (hasRoom (s.bay s.cur) [] w0 ∧ hasRoom (s.bay s.cur) (wordQueues w0) w1)) :
    exec (.emit2 rs1) s = onCur s fun b => b.poll (.emit2 rs1) := by
  rw [← Bay.room_iff, ← Bay.room_accept_iff _ _ _ off] at hr
  exact exec_onEmit rfl he (by simp only [hw0, hw1, Gen.off_eq, hoff, hc, hc1, Bool.and_eq_true, if_neg hr])

end
end

/-- What EMIT2 leaves, against any bay that the first word's acceptance can leave: the second word's acceptance there. -/
theorem accepts_accept_retire {y m : Bay} {w0 off : W32} (hm : accepts w0 off y.gen.srseed y.gen.srstep y m) (w1 : W32) :
    accepts w1 off y.gen.srseed y.gen.srstep { m with seqNo := y.seqNo + (m.eseq - y.eseq).toNat }
      ((y.accept w0 off).accept w1 off).retire := by
  have hu := hm.onlyGen_unique (accepts_accept y w0 off)
  obtain ⟨-, heq, -⟩ := accepts_unique hm (accepts_accept y w0 off)
  rw [Bay.accept_seqNo, heq] at hu
  have h := (accepts_retire (y.accept w0 off) w1 off).1
  rw [Bay.accept_gen] at h
  exact h.onlyGen_left hu

/-- Settles O16: each instruction's meaning is, case by case, an exception, a wait, or the fairlead's acceptance of its word
or words; EMIT2's second word is judged in the bay that the first word's acceptance leaves. -/
theorem emitsOneOrTwo : Obligations.emits_one_or_two := by
  unfold Obligations.emits_one_or_two
  intro rs1 rd s y g kind w0 w1 off taken
  have hm0 : accepts w0 off g.srseed g.srstep y (y.accept w0 off) := accepts_accept y w0 off
  refine ⟨fun he i hi => ?ended, fun he => ⟨fun hc hr => ⟨?emit, ?emitnb⟩, fun hc hr => ⟨?wait, ?answer⟩,
    fun c hc i hi => ?fault, fun hc m hm => ⟨fun c hc1 => ?fault2, fun hc1 hr hr1 => ?emit2, fun hc1 hr => ?wait2⟩⟩⟩
  case ended =>
    simp only [List.mem_cons, List.not_mem_nil, or_false] at hi
    rcases hi with rfl | rfl | rfl <;> exact completes_ended rfl he
  case emit =>
    refine ⟨_, exec_emit_room he rfl hc hr, onlyBay_modBay .., ?_⟩
    rw [State.bay_modBay_same, Gen.off_eq]
    exact accepts_retire ..
  case emitnb =>
    refine ⟨_, exec_emitnb_room he rfl hc hr, ⟨onlyBay_modBay .., ?_⟩, ?_⟩
    · rw [State.bay_modBay_same, Gen.off_eq]
      exact accepts_retireWith ..
    · rw [State.bay_modBay_same]
      exact (retireWith_gen ..).2
  case wait => exact completes_poll (exec_emit_full he rfl hc hr)
  case answer => exact completes_with (fun _ => 0) (exec_emitnb_full he rfl hc hr)
  case fault => exact completes_fault (exec_emits_fault he rfl hc i hi)
  case fault2 =>
    exact completes_fault (exec_emit2_fault_second he rfl rfl rfl hc ((hm.checkWord_eq hm0 ..).trans hc1))
  case emit2 =>
    have hc2 := (hm.checkWord_eq hm0 ..).trans hc1
    have hw1 := accepts_accept_retire hm w1
    refine ⟨_, exec_emit2_room he rfl rfl rfl hc hc2 hr hr1, onlyBay_modBay .., ?_⟩
    rw [State.bay_modBay_same]
    refine ⟨hw1, fun q hq hn => hw1.queue_eq hq hn, ?_⟩
    simpa using (accepts_retire (y.accept w0 off) w1 off).2
  case wait2 =>
    exact completes_poll (exec_emit2_full he rfl rfl rfl hc ((hm.checkWord_eq hm0 ..).trans hc1) hr)

end Sys2Proof.Machine
end

section
/-! SUPPORT. What reading a tile's entry gives (TINFO, TSTAT, BTST), and one test of TWAIT. -/
namespace Sys2Proof.Machine

/-! ### Operands and answers -/

/-- The model tests an operand's upper bits by division, the statements by extraction. -/
theorem div_two_pow_eq_zero_iff (v : Word) {lo n : Nat} (h : lo + n = 64) :
    v.toNat / 2 ^ lo = 0 ↔ v.extractLsb' lo n = 0 := by
  have hlt : v.toNat / 2 ^ lo < 2 ^ n := Nat.div_lt_of_lt_mul (by rw [← Nat.pow_add, h]; exact v.isLt)
  rw [← BitVec.toNat_inj, BitVec.extractLsb'_toNat, Nat.shiftRight_eq_div_pow, Nat.mod_eq_of_lt hlt]
  rfl

/-- An instruction of the current bay that answers v there. -/
theorem completes_answer {i : Instr} {s : State} {f : Bay → Bay} {rd : Reg} {v : Word} (hx : exec i s = onCur s f)
    (h : f (s.bay s.cur) = (s.bay s.cur).retireWith rd v) :
    Completes i s fun t => retires [rd] ((s.bay s.cur).gen.pc + 4) s t ∧ (t.bay s.cur).gen.rd rd = result rd v :=
  completes_with (fun _ => v) (hx.trans (onCur_congr h))

/-- An instruction of the current bay that faults there. -/
theorem completes_fault_of {i : Instr} {s : State} {f : Bay → Bay} {c : Nat} {v : Word} (hx : exec i s = onCur s f)
    (h : f (s.bay s.cur) = (s.bay s.cur).fault c v) : Completes i s (traps c v s) :=
  completes_fault (hx.trans (onCur_congr h))

/-! ### TINFO, TSTAT and BTST (R161, R164) -/

section
variable {rd rs1 rs2 : Reg} {s : State} {v w : Word} {u : Tile} (hv : (s.bay s.cur).gen.rd rs1 = v)
include hv

theorem tinfo_faults (h : v.toNat / 2 ^ 12 ≠ 0 ∨ 5 < (v.extractLsb' 8 4).toNat) :
    Completes (.tinfo rd rs1) s (traps 26 v s) := by
  subst hv
  exact completes_fault_of rfl (if_pos h)

/-- TSTAT and BTST fault alike where the handle's operand breaks its layout or names no allocated tile. -/
theorem tstat_btst_fault (h : v.toNat / 2 ^ 8 ≠ 0 ∨ ((s.bay s.cur).tile (v.extractLsb' 0 8)).alloc ≠ 1) :
    Completes (.tstat rd rs1) s (traps 26 v s) ∧ Completes (.btst rd rs1 rs2) s (traps 26 v s) := by
  subst hv
  exact ⟨completes_fault_of rfl (if_pos h), completes_fault_of rfl (if_pos h)⟩

variable (hu : (s.bay s.cur).tile (v.extractLsb' 0 8) = u)
include hu

/-- TINFO's answer to each item. -/
theorem tinfo_answers {r : Word} {item : Nat} (hi : (v.extractLsb' 8 4).toNat = item)
    (hc : v.toNat / 2 ^ 12 = 0) (h5 : item ≤ 5)
    (hr : (if item = 0 then u.info else if item = 5 then BitVec.ofNat 64 u.base
      else (u.org (2 * item - 1)).signExtend 32 ++ (u.org (2 * item - 2)).signExtend 32) = r) :
    Completes (.tinfo rd rs1) s fun t =>
      retires [rd] ((s.bay s.cur).gen.pc + 4) s t ∧ (t.bay s.cur).gen.rd rd = result rd r := by
  subst hv hu hi
  refine completes_answer rfl ((if_neg (not_or.mpr ⟨not_not_intro hc, Nat.not_lt.mpr h5⟩)).trans ?_)
  rw [← hr]
  split
  · rfl
  · split <;> rfl

variable (hc : ¬ (v.toNat / 2 ^ 8 ≠ 0 ∨ u.alloc ≠ 1))
include hc

theorem tstat_answers : Completes (.tstat rd rs1) s fun t =>
    retires [rd] ((s.bay s.cur).gen.pc + 4) s t ∧ (t.bay s.cur).gen.rd rd = result rd (u.status.setWidth 64) := by
  subst hv hu
  exact completes_answer rfl (if_neg hc)

variable (hw : (s.bay s.cur).gen.rd rs2 = w)
include hw

theorem btst_faults_mask (h : w.toNat / 2 ^ 9 ≠ 0) : Completes (.btst rd rs1 rs2) s (traps 26 w s) := by
  subst hv hu hw
  exact completes_fault_of rfl ((if_neg hc).trans (if_pos h))

/-- BTST's answer: with ALL every flag of the mask is raised, without it one of them. -/
theorem btst_answers (h : w.toNat / 2 ^ 9 = 0) {p : Prop} [Decidable p]
    (hp : p ↔ if w.getLsbD 8 then stFlags u.status &&& w.extractLsb' 0 8 = w.extractLsb' 0 8
      else stFlags u.status &&& w.extractLsb' 0 8 ≠ 0) :
    Completes (.btst rd rs1 rs2) s fun t =>
      retires [rd] ((s.bay s.cur).gen.pc + 4) s t ∧ (t.bay s.cur).gen.rd rd = result rd (if p then 1 else 0) := by
  subst hv hu hw
  refine completes_answer rfl ((if_neg hc).trans ((if_neg (not_not_intro h)).trans ?_))
  congr 1
  rw [boolW]
  refine if_congr (Iff.symm (hp.trans ?_)) rfl rfl
  split
  · exact beq_iff_eq.symm
  · exact bne_iff_ne.symm

end

theorem stFlags_eq (x : W32) : stFlags x = x.extractLsb' 0 8 := by ext; simp [stFlags]

/-- Settles O21: each clause is the branch of the instruction's meaning that its hypotheses choose. -/
theorem tileReads : Obligations.tile_reads := by
  unfold Obligations.tile_reads
  constructor
  · intro rd rs1 rs2 s y v w u item npc answers
    have hbits {x : Word} {lo n : Nat} (h : lo + n = 64) := div_two_pow_eq_zero_iff x h
    refine ⟨fun h => tinfo_faults rfl (h.imp_left (mt (hbits rfl).mp)), fun hc => ?items,
      fun h => tstat_btst_fault rfl (h.imp_left (mt (hbits rfl).mp)), fun hc ha => ?allocated⟩
    case items =>
      have h12 := (hbits rfl).mpr hc
      refine ⟨fun h0 => tinfo_answers rfl rfl h0 h12 (by decide) rfl,
        fun h5 => tinfo_answers rfl rfl h5 h12 (by decide) rfl,
        fun k h1 h4 hk => tinfo_answers rfl rfl hk h12 (by omega) ?_⟩
      rw [if_neg (by omega), if_neg (by omega)]
      rfl
    case allocated =>
      have hok := not_or.mpr ⟨not_not_intro ((hbits rfl).mpr hc), not_not_intro ha⟩
      refine ⟨tstat_answers rfl rfl hok, fun h => btst_faults_mask rfl rfl hok rfl (mt (hbits rfl).mp h), fun hm => ?_⟩
      exact ⟨fun hall => btst_answers rfl rfl hok rfl ((hbits rfl).mpr hm) (by rw [if_pos hall, stFlags_eq]),
        fun hany => btst_answers rfl rfl hok rfl ((hbits rfl).mpr hm)
          (by rw [if_neg (ne_true_of_eq_false hany), stFlags_eq])⟩
  · intro rs1 rs2 s y g v u i bad holds expired
    have hbad : bad ↔ v.toNat / 2 ^ 10 ≠ 0 ∨ (u.alloc = 0 ∧ g.wait = none) :=
      or_congr_left (not_congr (div_two_pow_eq_zero_iff v rfl).symm)
    rw [hbad]
    refine ⟨fun hb => ?fault, fun hb hh => ?done, fun hb hh he => ?expires, fun hb hh he => ?waits⟩
    case fault => exact completes_fault_of rfl (if_pos hb)
    case done => exact completes_plain (onCur_congr ((if_neg hb).trans (if_pos hh)))
    case expires => exact completes_fault_of rfl ((if_neg hb).trans ((if_neg hh).trans (if_pos he)))
    case waits => exact completes_poll (onCur_congr ((if_neg hb).trans ((if_neg hh).trans (if_neg he))))

end Sys2Proof.Machine
end

section
/-! SUPPORT. TALLOC: the lowest free handle, and that the lowest of the runs the model tries, those from line 0 and from
behind an occupied run, is the lowest run of free lines. -/
namespace Sys2Proof.Machine

/-! ### The lowest run of free lines (R149, R157) -/

theorem leastOf_eq_min? (l : List Nat) : leastOf l = l.min? := by
  induction l with
  | nil => rfl
  | cons a t ih => rw [leastOf, ih, List.min?_cons]; cases t.min? <;> rfl

theorem runFree_iff {occ : List (Nat × Nat)} {total a n : Nat} :
    runFree occ total a n = true ↔ a + n ≤ total ∧ ∀ r ∈ occ, a + n ≤ r.1 ∨ r.1 + r.2 ≤ a := by
  simp [runFree]

/-- A run that cannot begin one line lower begins at line 0 or right behind an occupied run. -/
theorem mem_starts_of_runFree {occ : List (Nat × Nat)} {total a n : Nat} (h : runFree occ total a n = true)
    (hlow : ∀ k < a, runFree occ total k n ≠ true) : a ∈ 0 :: occ.map fun r => r.1 + r.2 := by
  rw [List.mem_cons, or_iff_not_imp_left]
  intro ha
  obtain ⟨hle, hfree⟩ := runFree_iff.mp h
  have hblock := mt runFree_iff.mpr (hlow (a - 1) (by omega))
  push Not at hblock
  obtain ⟨r, hr, hbefore, hbehind⟩ := hblock (by omega)
  have := hfree r hr
  exact List.mem_map.mpr ⟨r, hr, by omega⟩

theorem lowestRun_eq_none {occ : List (Nat × Nat)} {total n : Nat} (h : ∀ a, runFree occ total a n ≠ true) :
    lowestRun occ total n = none := by
  rw [lowestRun, leastOf_eq_min?, List.min?_eq_none_iff, List.filter_eq_nil_iff]
  exact fun a _ => h a

theorem lowestRun_eq_some {occ : List (Nat × Nat)} {total n a : Nat} (h : runFree occ total a n = true)
    (hlow : ∀ k < a, runFree occ total k n ≠ true) : lowestRun occ total n = some a := by
  rw [lowestRun, leastOf_eq_min?, List.min?_eq_some_iff]
  refine ⟨List.mem_filter.mpr ⟨mem_starts_of_runFree h hlow, h⟩, fun k hk => ?_⟩
  exact Nat.not_lt.mp fun hka => hlow k hka (List.mem_filter.mp hk).2

/-! ### The lines that allocated tiles occupy (R148, R149) -/

theorem mem_occupied {level : BitVec 1} {t : Tab Tile} {r : Nat × Nat} :
    r ∈ occupied level t ↔ ∃ e ∈ t, (e.2.alloc ≠ 0 ∧ e.2.level = level) ∧ (e.2.base, e.2.lines) = r := by
  simp [occupied, and_assoc]

/-- The bays of a shed are its sixteen positions. -/
theorem shedOf_eq_iff (b c : BayNo) : shedOf c = shedOf b ↔ ∃ p < 16, shedOf b ++ BitVec.ofNat 4 p = c := by
  constructor
  · intro h
    refine ⟨(c.extractLsb' 0 4).toNat, (c.extractLsb' 0 4).isLt, ?_⟩
    rw [BitVec.ofNat_toNat, BitVec.setWidth_eq, ← h]
    exact BitVec.extractLsb'_append_extractLsb'
  · rintro ⟨p, -, rfl⟩
    simp only [shedOf]
    exact BitVec.extractLsb'_append_eq_left

theorem mem_state_occupied {s : State} {b : BayNo} {level : BitVec 1} {r : Nat × Nat} :
    r ∈ s.occupied b level ↔ ∃ c : BayNo, (if level = 0 then c = b else shedOf c = shedOf b) ∧
      r ∈ occupied level (s.bay c).tiles := by
  unfold State.occupied
  split
  next h => simp [h]
  next h =>
    obtain rfl : level = 1 := (BitVec.eq_zero_or_eq_one level).resolve_left h
    simp [shedOf_eq_iff]

/-- The model's test of a run is the statement's. -/
theorem runFree_occupied_iff (s : State) (b : BayNo) (level : BitVec 1) (n a : Nat) :
    runFree (s.occupied b level) (levelLines level) a n = true ↔ linesFree s b level n a := by
  rw [runFree_iff, linesFree]
  refine and_congr Iff.rfl ?_
  simp only [mem_state_occupied, mem_occupied]
  constructor
  · intro h c hc e he ha hl
    exact h _ ⟨c, hc, e, he, ⟨ha, hl⟩, rfl⟩
  · rintro h _ ⟨c, hc, e, he, ⟨ha, hl⟩, rfl⟩
    exact h c hc e he ha hl

/-! ### The lowest free handle, and the tile table -/

theorem Bay.freeHandle_eq_none {y : Bay} (h : ∀ k : Byte, (y.tile k).alloc ≠ 0) : y.freeHandle = none := by
  rw [Bay.freeHandle, Option.map_eq_none_iff, List.find?_eq_none]
  exact fun k _ => by simpa using h (BitVec.ofNat 8 k)

theorem Bay.freeHandle_eq_some {y : Bay} {h : Byte} (hfree : (y.tile h).alloc = 0)
    (hlow : ∀ k : Byte, k.toNat < h.toNat → (y.tile k).alloc ≠ 0) : y.freeHandle = some h := by
  rw [Bay.freeHandle, Option.map_eq_some_iff]
  refine ⟨h.toNat, ?_, BitVec.ofNat_toNat ..⟩
  rw [List.find?_range_eq_some]
  refine ⟨by simpa using hfree, List.mem_range.mpr h.isLt, fun k hk => ?_⟩
  have hk8 : (BitVec.ofNat 8 k).toNat = k := (BitVec.toNat_ofNat k 8).trans (Nat.mod_eq_of_lt (hk.trans h.isLt))
  simpa using hlow (BitVec.ofNat 8 k) (by rwa [hk8])

theorem Bay.tile_setTile (y : Bay) (h k : Byte) (t : Tile) :
    (y.setTile h t).tile k = if k = h then t else y.tile k := by
  simp only [Bay.tile, Bay.setTile, Tab.get_put, BitVec.toNat_inj]

@[simp] theorem Bay.tile_retireWith (y : Bay) (rd : Reg) (v : Word) (k : Byte) :
    (y.retireWith rd v).tile k = y.tile k := rfl

/-- A tile-table entry changes and the instruction retires with a result. -/
theorem retiresTiles_setTile_retireWith (s : State) (h : Byte) (t : Tile) (rd : Reg) (v : Word) :
    let u := s.modBay s.cur fun b => (b.setTile h t).retireWith rd v
    retiresTiles [rd] ((s.bay s.cur).gen.pc + 4) s u ∧ (u.bay s.cur).gen.rd rd = result rd v ∧
      (∀ k, k ≠ h → (u.bay s.cur).tile k = (s.bay s.cur).tile k) ∧ (u.bay s.cur).tile h = t := by
  intro u
  obtain ⟨hret, hrd⟩ := retireWith_gen ((s.bay s.cur).setTile h t) rd v
  have hu : u.bay s.cur = ((s.bay s.cur).setTile h t).retireWith rd v := State.bay_modBay_same ..
  have htile (k : Byte) : (u.bay s.cur).tile k = if k = h then t else (s.bay s.cur).tile k := by
    rw [hu, Bay.tile_retireWith, Bay.tile_setTile]
  refine ⟨⟨onlyBay_modBay .., ?_, ?_⟩, ?_, fun k hk => (htile k).trans (if_neg hk), (htile h).trans (if_pos rfl)⟩
  · rw [hu]; exact hret
  · rw [hu]; exact onlyGen_retireWith ((s.bay s.cur).setTile h t) rd v
  · rw [hu]; exact hrd

/-! ### TALLOC (R157) -/

section
variable {rd rs1 rs2 : Reg} {s : State} {v p : Word} (hv : (s.bay s.cur).gen.rd rs1 = v)
  (hp : (s.bay s.cur).gen.rd rs2 = p)
include hv

theorem exec_talloc_bad_shape (h : v.toNat / 2 ^ 29 ≠ 0 ∨ v.extractLsb' 24 4 = 15) :
    exec (.talloc rd rs1 rs2) s = onCur s fun b => b.fault 26 v := by
  subst hv
  exact if_pos h

variable (hc : ¬ (v.toNat / 2 ^ 29 ≠ 0 ∨ v.extractLsb' 24 4 = 15))
include hp hc

theorem exec_talloc_bad_placement (h : p.extractLsb' 60 2 ≠ 0) :
    exec (.talloc rd rs1 rs2) s = onCur s fun b => b.fault 26 p := by
  subst hv hp
  exact (if_neg hc).trans (if_pos h)

variable (h60 : p.extractLsb' 60 2 = 0)
include h60

theorem exec_talloc_no_handle (hh : (s.bay s.cur).freeHandle = none) :
    exec (.talloc rd rs1 rs2) s = onCur s fun b => b.retireWith rd (BitVec.allOnes 64) := by
  subst hv hp
  refine (if_neg hc).trans ((if_neg (not_not_intro h60)).trans ?_)
  rw [hh]

variable {h : Byte} (hh : (s.bay s.cur).freeHandle = some h)
include hh

theorem exec_talloc_no_run
    (hl : lowestRun (s.occupied s.cur (tallocTile v p 0).level) (levelLines (tallocTile v p 0).level)
      (tallocTile v p 0).lines = none) :
    exec (.talloc rd rs1 rs2) s = onCur s fun b => b.retireWith rd 0xFFFFFFFFFFFFFFFE := by
  subst hv hp
  refine (if_neg hc).trans ((if_neg (not_not_intro h60)).trans ?_)
  simp only [hh, hl]

theorem exec_talloc_run {a : Nat}
    (hl : lowestRun (s.occupied s.cur (tallocTile v p 0).level) (levelLines (tallocTile v p 0).level)
      (tallocTile v p 0).lines = some a) :
    exec (.talloc rd rs1 rs2) s = onCur s fun b => (b.setTile h (tallocTile v p a)).retireWith rd (zext h) := by
  subst hv hp
  refine (if_neg hc).trans ((if_neg (not_not_intro h60)).trans ?_)
  simp only [hh, hl]

end

/-- Settles O19: the operands' faults come first; then the lowest free handle and the lowest run that the model finds are the
statement's, and each of the three outcomes retires with its answer. -/
theorem tallocCompletes : Obligations.talloc_completes := by
  unfold Obligations.talloc_completes
  intro rd rs1 rs2 s y v p fmt rows cols n free i bad npc
  have hbad : bad ↔ v.toNat / 2 ^ 29 ≠ 0 ∨ fmt = 15 := or_congr_left (not_congr (div_two_pow_eq_zero_iff v rfl).symm)
  have hfree (a : Nat) := (runFree_occupied_iff s s.cur (p.extractLsb' 63 1) n a).symm
  rw [hbad]
  refine ⟨fun hb => completes_fault (exec_talloc_bad_shape rfl hb),
    fun hb h60 => completes_fault (exec_talloc_bad_placement rfl rfl hb h60), fun hb h60 => ?_⟩
  refine ⟨fun hnone => ?noHandle, fun h ha hlow => ⟨fun hno => ?noRun, fun a hrun hfirst => ?run⟩⟩
  case noHandle =>
    exact completes_answer (exec_talloc_no_handle rfl rfl hb h60 (Bay.freeHandle_eq_none hnone)) rfl
  case noRun =>
    have hl := lowestRun_eq_none fun a => mt (hfree a).mpr (hno a)
    exact completes_answer (exec_talloc_no_run rfl rfl hb h60 (Bay.freeHandle_eq_some ha hlow) hl) rfl
  case run =>
    have hl := lowestRun_eq_some ((hfree a).mp hrun) fun k hk => mt (hfree k).mpr (hfirst k hk)
    exact ⟨_, exec_talloc_run rfl rfl hb h60 (Bay.freeHandle_eq_some ha hlow) hl,
      retiresTiles_setTile_retireWith s h (tallocTile v p a) rd (h.setWidth 64)⟩

end Sys2Proof.Machine
end
